-- ==== Sys2Proof/Word.lean ====
section
/-!
DEFINITION. The word types of the core: bytes (STORE, WINDOW) and 32-bit operands
(20_memory.md R42, 30_encoding.md R67).
-/

namespace Sys2Proof

/-- One byte of STORE, of WINDOW, or of a command's DATA. -/
abbrev Byte := BitVec 8

/-- A 32-bit field: a command operand, a cursor, a repeated offset. -/
abbrev U32 := BitVec 32

end Sys2Proof
end

