-- ==== Sys2Proof/Machine/Rom.lean ====
section
/-!
DEFINITION. The read-only constant tables of the engine (10_state.md R31): EXTRA_BITS[0..51] and
POSITION_BASE[0..50]. Their values are the spec's own general knowledge (93_implementation_defined.md G1).
-/

namespace Sys2Proof.Machine

/-- EXTRA_BITS[slot] (10_state.md R31): 0 for slots 0 to 3, then one more for every two slots, at most 17. -/
def extraBits (slot : Nat) : Nat :=
  if slot < 4 then 0 else min (slot / 2 - 1) 17

/-- POSITION_BASE[slot] (10_state.md R31): the sum of 2^EXTRA_BITS of all slots before. -/
def positionBase : Nat → Nat
  | 0 => 0
  | i + 1 => positionBase i + 2 ^ extraBits i

end Sys2Proof.Machine
end

