-- ==== Sys2Proof/Config.lean ====
section
/-!
DEFINITION. What an instance of the core fixes: the two named parameters (00_scope.md R8) and the
constants of 00_scope.md R7 that the source document or a decision of the spec states.
-/

namespace Sys2Proof

/-- ALIGNED_EXTRA3_MODE (00_scope.md R7, R8; 92_eei_decisions.md D24; conflict C1): how an Aligned
block codes the offset of a slot whose EXTRA_BITS is 3. -/
inductive Extra3Mode where
  /-- The aligned symbol alone gives the three low bits (the default). -/
  | standard
  /-- Three verbatim bits are read first and added to the aligned symbol. -/
  | sourceLiteral
deriving DecidableEq, Repr

/-- The inputs that are fixed for the lifetime of a core instance (00_scope.md R8). -/
structure Params where
  /-- EMPTY_TREE_ACCEPT (92_eei_decisions.md D15), default false. -/
  emptyTreeAccept : Bool := false
  /-- ALIGNED_EXTRA3_MODE (92_eei_decisions.md D24), default standard. -/
  alignedExtra3 : Extra3Mode := .standard
deriving DecidableEq, Repr

/-- WINDOW_SIZE (00_scope.md R7). -/
abbrev windowSize : Nat := 65536

/-- STORE addresses and cursor values stay below this (20_memory.md R44, D6). -/
abbrev addressLimit : Nat := 4294967296

/-- FRAME_BLOCK_LIMIT (00_scope.md R7). -/
abbrev frameBlockLimit : Nat := 0x10000

/-- DEFAULT_FRAME_SIZE (00_scope.md R7). -/
abbrev defaultFrameSize : Nat := 0x8000

/-- HOST_MAX_SYMBOLS (00_scope.md R7, D13). -/
abbrev hostMaxSymbols : Nat := 1024

/-- MAX_CODE_LEN (00_scope.md R7). -/
abbrev maxCodeLen : Nat := 16

end Sys2Proof
end

