-- ==== Sys2Proof/Syntax.lean ====
section
/-!
DEFINITION. The instruction set: one constructor of `Instr` for every row of spec/opcode_table.json,
the host commands of 30_encoding.md R68, R69 and the bitstream elements of R71 to R83, and the forms in
which they reach the core (a command record, R67; a kind of element the engine reads next).
-/

namespace Sys2Proof

/-- A host command as it is sent (30_encoding.md R67). -/
structure Command where
  /-- The opcode byte. -/
  opcode : BitVec 8
  /-- Operand A. -/
  a : U32 := 0
  /-- Operand B. -/
  b : U32 := 0
  /-- The byte sequence DATA. -/
  data : List Byte := []
deriving DecidableEq, Repr

/-- The four Huffman trees of the engine (42_huffman.md R137). -/
inductive Tree where
  | pretree | main | length | aligned
deriving DecidableEq, Repr

/-- The length arrays that delta decoding writes (43_lzx_blocks.md R147). -/
inductive LenArray where
  | main | length
deriving DecidableEq, Repr

/-- What the engine reads next at the cursors: the places of 43 R139 to R147, 44 R150 to R163 and
45 R166 at which a bitstream element stands. -/
inductive ElemKind where
  /-- A chunk header of the framer (45 R166). -/
  | chunkHeader
  /-- The session header bit (43 R140). -/
  | transform
  /-- A block header (43 R141). -/
  | blockHeader
  /-- The aligned tree's lengths (43 R144). -/
  | alignedLengths
  /-- A pretree definition (43 R147). -/
  | pretree
  /-- One pretree-coded item (43 R147). -/
  | pretreeItem
  /-- One main-tree element with its fields (44 R150). -/
  | mainItem
  /-- A length footer alone (44 R153). -/
  | lengthFooter
  /-- An aligned symbol alone (44 R159). -/
  | alignedSymbol
  /-- The way to the next bit-frame boundary (41 R92). -/
  | align
  /-- The three repeated offsets of an Uncompressed block (43 R146). -/
  | uncompReps
  /-- The raw bytes of an Uncompressed run (44 R163). -/
  | uncompBytes
deriving DecidableEq, Repr

/-- The instructions. In a match, `lh` is the length header and `footer` the length-tree symbol that
follows it exactly when `lh` is 7 (30_encoding.md R78, R79). -/
inductive Instr where
  /-- SEEK_ABS: opcode 0x01, A = address (41_buffer.md R95). -/
  | seekAbs (a : U32)
  /-- SEEK_REL: opcode 0x02, A = delta, read as s32 (41 R96). -/
  | seekRel (d : U32)
  /-- READ_BYTES: opcode 0x03, A = n (41 R98). -/
  | readBytes (n : U32)
  /-- PEEK_BYTES: opcode 0x04, A = n (41 R99). -/
  | peekBytes (n : U32)
  /-- GET_POS: opcode 0x05 (41 R97). -/
  | getPos
  /-- REG_READ: opcode 0x06, A = register number (41 R122). -/
  | regRead (a : U32)
  /-- ARRAY_READ: opcode 0x07, A = array id, B = index (41 R123). -/
  | arrayRead (a : U32) (b : U32)
  /-- READ_U8: opcode 0x10 (41 R101). -/
  | readU8
  /-- READ_I8: opcode 0x11 (41 R102). -/
  | readI8
  /-- READ_U16LE: opcode 0x12 (41 R103). -/
  | readU16LE
  /-- READ_U16BE: opcode 0x13 (41 R104). -/
  | readU16BE
  /-- READ_I16LE: opcode 0x14 (41 R105). -/
  | readI16LE
  /-- READ_I16BE: opcode 0x15 (41 R106). -/
  | readI16BE
  /-- READ_U32LE: opcode 0x16 (41 R107). -/
  | readU32LE
  /-- READ_U32BE: opcode 0x17 (41 R108). -/
  | readU32BE
  /-- READ_I32LE: opcode 0x18 (41 R109). -/
  | readI32LE
  /-- READ_I32BE: opcode 0x19 (41 R110). -/
  | readI32BE
  /-- READ_F32LE: opcode 0x1A (41 R111). -/
  | readF32LE
  /-- READ_F32BE: opcode 0x1B (41 R112). -/
  | readF32BE
  /-- READ_F64LE: opcode 0x1C (41 R113). -/
  | readF64LE
  /-- READ_F64BE: opcode 0x1D (41 R114). -/
  | readF64BE
  /-- READ_7BIT: opcode 0x20 (41 R115). -/
  | read7Bit
  /-- READ_STRING: opcode 0x21 (41 R116). -/
  | readString
  /-- READ_LZX_INT16: opcode 0x22 (41 R117). -/
  | readLzxInt16
  /-- READ_BITS: opcode 0x30, A = n, 0..16 (41 R118). -/
  | readBits (n : U32)
  /-- PEEK_BITS: opcode 0x31, A = n, 0..32 (41 R119). -/
  | peekBits (n : U32)
  /-- SET_BIT_POS: opcode 0x32, A = v, read as s32 (41 R120). -/
  | setBitPos (v : U32)
  /-- ALIGN: the host command, opcode 0x33 (41 R121). -/
  | align
  /-- HUF_BUILD: opcode 0x40, A = n, B = table bits, DATA = the lengths (42_huffman.md R135). -/
  | hufBuild (n : U32) (tb : U32) (data : List Byte)
  /-- HUF_DECODE: opcode 0x41 (42 R136). -/
  | hufDecode
  /-- LZX_RESET: opcode 0x50 (43_lzx_blocks.md R138). -/
  | lzxReset
  /-- LZX_DECOMPRESS: opcode 0x51, A = frame_size, B = block_size (43 R139). -/
  | lzxDecompress (fs : U32) (bs : U32)
  /-- FRM_RUN: opcode 0x60, A = compressed_len, B = declared_len (45_framer.md R166). -/
  | frmRun (clen : U32) (dlen : U32)
  /-- LOAD: opcode 0x70, DATA = the new store contents (70_reset_and_hazards.md R190). -/
  | load (data : List Byte)
  /-- RESET: opcode 0x7F (70 R187). -/
  | reset
  /-- ILLEGAL: any other opcode (30_encoding.md R69). -/
  | illegal (op : BitVec 8)
  /-- FRM.EXPLICIT: chunk header FF, frame_size, block_size, each first byte high (30 R71, 45 R166). -/
  | frmExplicit (fs : BitVec 16) (bs : BitVec 16)
  /-- FRM.IMPLICIT: chunk header block_size, first byte not FF; frame_size is 0x8000 (30 R71, 45 R166). -/
  | frmImplicit (bs : BitVec 16)
  /-- TRANSFORM: the session header bit (30 R73, 43 R140). -/
  | transform (t : BitVec 1)
  /-- BLOCK.INVALID0: block header of type 0 (30 R74, 43 R141). -/
  | blockInvalid0 (size : BitVec 24)
  /-- BLOCK.VERBATIM: block header of type 1 (30 R74, 43 R141). -/
  | blockVerbatim (size : BitVec 24)
  /-- BLOCK.ALIGNED: block header of type 2 (30 R74, 43 R141). -/
  | blockAligned (size : BitVec 24)
  /-- BLOCK.UNCOMPRESSED: block header of type 3 (30 R74, 43 R141). -/
  | blockUncompressed (size : BitVec 24)
  /-- BLOCK.INVALID4_7: block header of type 4 + t (30 R74, 43 R141). -/
  | blockInvalid4to7 (t : BitVec 2) (size : BitVec 24)
  /-- ALIGNED_LENGTHS: the eight lengths of the aligned tree, symbol 0 first (30 R75, 43 R144). -/
  | alignedLengths (a : Vector (BitVec 3) 8)
  /-- PRETREE: the twenty pretree lengths, symbol 0 first (30 R77, 43 R147). -/
  | pretree (p : Vector (BitVec 4) 20)
  /-- PT.DELTA: pretree symbol s in 0..16: one entry by a delta (30 R77, 43 R147). -/
  | ptDelta (s : BitVec 5)
  /-- PT.Z4: pretree symbol 17: z + 4 zero entries (30 R77, 43 R147). -/
  | ptZ4 (z : BitVec 4)
  /-- PT.Z20: pretree symbol 18: z + 20 zero entries (30 R77, 43 R147). -/
  | ptZ20 (z : BitVec 5)
  /-- PT.SAME: pretree symbol 19: z + 4 entries of one delta s2 (30 R77, 43 R147). -/
  | ptSame (z : BitVec 1) (s2 : BitVec 5)
  /-- LIT: main symbol c in 0..255 (30 R78, 44_lzx_decode.md R152). -/
  | lit (c : Byte)
  /-- MATCH.S0: match of slot 0, any block type (30 R80, 44 R154). -/
  | matchS0 (lh : BitVec 3) (footer : Option (BitVec 8))
  /-- MATCH.S1: match of slot 1, any block type (30 R80, 44 R155). -/
  | matchS1 (lh : BitVec 3) (footer : Option (BitVec 8))
  /-- MATCH.S2: match of slot 2, any block type (30 R80, 44 R156). -/
  | matchS2 (lh : BitVec 3) (footer : Option (BitVec 8))
  /-- MATCH.S3: match of slot 3, any block type (30 R80, 44 R157). -/
  | matchS3 (lh : BitVec 3) (footer : Option (BitVec 8))
  /-- MATCH.V.S4: match of slot 4 in a Verbatim block: offset 4 - 2 + v (30 R80, 44 R158). -/
  | matchVS4 (lh : BitVec 3) (footer : Option (BitVec 8)) (v : BitVec 1)
  /-- MATCH.V.S5: match of slot 5 in a Verbatim block: offset 6 - 2 + v (30 R80, 44 R158). -/
  | matchVS5 (lh : BitVec 3) (footer : Option (BitVec 8)) (v : BitVec 1)
  /-- MATCH.V.S6: match of slot 6 in a Verbatim block: offset 8 - 2 + v (30 R80, 44 R158). -/
  | matchVS6 (lh : BitVec 3) (footer : Option (BitVec 8)) (v : BitVec 2)
  /-- MATCH.V.S7: match of slot 7 in a Verbatim block: offset 12 - 2 + v (30 R80, 44 R158). -/
  | matchVS7 (lh : BitVec 3) (footer : Option (BitVec 8)) (v : BitVec 2)
  /-- MATCH.V.S8: match of slot 8 in a Verbatim block: offset 16 - 2 + v (30 R80, 44 R158). -/
  | matchVS8 (lh : BitVec 3) (footer : Option (BitVec 8)) (v : BitVec 3)
  /-- MATCH.V.S9: match of slot 9 in a Verbatim block: offset 24 - 2 + v (30 R80, 44 R158). -/
  | matchVS9 (lh : BitVec 3) (footer : Option (BitVec 8)) (v : BitVec 3)
  /-- MATCH.V.S10: match of slot 10 in a Verbatim block: offset 32 - 2 + v (30 R80, 44 R158). -/
  | matchVS10 (lh : BitVec 3) (footer : Option (BitVec 8)) (v : BitVec 4)
  /-- MATCH.V.S11: match of slot 11 in a Verbatim block: offset 48 - 2 + v (30 R80, 44 R158). -/
  | matchVS11 (lh : BitVec 3) (footer : Option (BitVec 8)) (v : BitVec 4)
  /-- MATCH.V.S12: match of slot 12 in a Verbatim block: offset 64 - 2 + v (30 R80, 44 R158). -/
  | matchVS12 (lh : BitVec 3) (footer : Option (BitVec 8)) (v : BitVec 5)
  /-- MATCH.V.S13: match of slot 13 in a Verbatim block: offset 96 - 2 + v (30 R80, 44 R158). -/
  | matchVS13 (lh : BitVec 3) (footer : Option (BitVec 8)) (v : BitVec 5)
  /-- MATCH.V.S14: match of slot 14 in a Verbatim block: offset 128 - 2 + v (30 R80, 44 R158). -/
  | matchVS14 (lh : BitVec 3) (footer : Option (BitVec 8)) (v : BitVec 6)
  /-- MATCH.V.S15: match of slot 15 in a Verbatim block: offset 192 - 2 + v (30 R80, 44 R158). -/
  | matchVS15 (lh : BitVec 3) (footer : Option (BitVec 8)) (v : BitVec 6)
  /-- MATCH.V.S16: match of slot 16 in a Verbatim block: offset 256 - 2 + v (30 R80, 44 R158). -/
  | matchVS16 (lh : BitVec 3) (footer : Option (BitVec 8)) (v : BitVec 7)
  /-- MATCH.V.S17: match of slot 17 in a Verbatim block: offset 384 - 2 + v (30 R80, 44 R158). -/
  | matchVS17 (lh : BitVec 3) (footer : Option (BitVec 8)) (v : BitVec 7)
  /-- MATCH.V.S18: match of slot 18 in a Verbatim block: offset 512 - 2 + v (30 R80, 44 R158). -/
  | matchVS18 (lh : BitVec 3) (footer : Option (BitVec 8)) (v : BitVec 8)
  /-- MATCH.V.S19: match of slot 19 in a Verbatim block: offset 768 - 2 + v (30 R80, 44 R158). -/
  | matchVS19 (lh : BitVec 3) (footer : Option (BitVec 8)) (v : BitVec 8)
  /-- MATCH.V.S20: match of slot 20 in a Verbatim block: offset 1024 - 2 + v (30 R80, 44 R158). -/
  | matchVS20 (lh : BitVec 3) (footer : Option (BitVec 8)) (v : BitVec 9)
  /-- MATCH.V.S21: match of slot 21 in a Verbatim block: offset 1536 - 2 + v (30 R80, 44 R158). -/
  | matchVS21 (lh : BitVec 3) (footer : Option (BitVec 8)) (v : BitVec 9)
  /-- MATCH.V.S22: match of slot 22 in a Verbatim block: offset 2048 - 2 + v (30 R80, 44 R158). -/
  | matchVS22 (lh : BitVec 3) (footer : Option (BitVec 8)) (v : BitVec 10)
  /-- MATCH.V.S23: match of slot 23 in a Verbatim block: offset 3072 - 2 + v (30 R80, 44 R158). -/
  | matchVS23 (lh : BitVec 3) (footer : Option (BitVec 8)) (v : BitVec 10)
  /-- MATCH.V.S24: match of slot 24 in a Verbatim block: offset 4096 - 2 + v (30 R80, 44 R158). -/
  | matchVS24 (lh : BitVec 3) (footer : Option (BitVec 8)) (v : BitVec 11)
  /-- MATCH.V.S25: match of slot 25 in a Verbatim block: offset 6144 - 2 + v (30 R80, 44 R158). -/
  | matchVS25 (lh : BitVec 3) (footer : Option (BitVec 8)) (v : BitVec 11)
  /-- MATCH.V.S26: match of slot 26 in a Verbatim block: offset 8192 - 2 + v (30 R80, 44 R158). -/
  | matchVS26 (lh : BitVec 3) (footer : Option (BitVec 8)) (v : BitVec 12)
  /-- MATCH.V.S27: match of slot 27 in a Verbatim block: offset 12288 - 2 + v (30 R80, 44 R158). -/
  | matchVS27 (lh : BitVec 3) (footer : Option (BitVec 8)) (v : BitVec 12)
  /-- MATCH.V.S28: match of slot 28 in a Verbatim block: offset 16384 - 2 + v (30 R80, 44 R158). -/
  | matchVS28 (lh : BitVec 3) (footer : Option (BitVec 8)) (v : BitVec 13)
  /-- MATCH.V.S29: match of slot 29 in a Verbatim block: offset 24576 - 2 + v (30 R80, 44 R158). -/
  | matchVS29 (lh : BitVec 3) (footer : Option (BitVec 8)) (v : BitVec 13)
  /-- MATCH.V.S30: match of slot 30 in a Verbatim block: offset 32768 - 2 + v (30 R80, 44 R158). -/
  | matchVS30 (lh : BitVec 3) (footer : Option (BitVec 8)) (v : BitVec 14)
  /-- MATCH.V.S31: match of slot 31 in a Verbatim block: offset 49152 - 2 + v (30 R80, 44 R158). -/
  | matchVS31 (lh : BitVec 3) (footer : Option (BitVec 8)) (v : BitVec 14)
  /-- MATCH.A.S4: match of slot 4 in an Aligned block: offset 4 - 2 + v (30 R80, 44 R159). -/
  | matchAS4 (lh : BitVec 3) (footer : Option (BitVec 8)) (v : BitVec 1)
  /-- MATCH.A.S5: match of slot 5 in an Aligned block: offset 6 - 2 + v (30 R80, 44 R159). -/
  | matchAS5 (lh : BitVec 3) (footer : Option (BitVec 8)) (v : BitVec 1)
  /-- MATCH.A.S6: match of slot 6 in an Aligned block: offset 8 - 2 + v (30 R80, 44 R159). -/
  | matchAS6 (lh : BitVec 3) (footer : Option (BitVec 8)) (v : BitVec 2)
  /-- MATCH.A.S7: match of slot 7 in an Aligned block: offset 12 - 2 + v (30 R80, 44 R159). -/
  | matchAS7 (lh : BitVec 3) (footer : Option (BitVec 8)) (v : BitVec 2)
  /-- MATCH.A.S8: match of slot 8 in an Aligned block: offset 16 - 2 + a, or + v + a in source_literal mode (30 R80, 44 R159). -/
  | matchAS8 (lh : BitVec 3) (footer : Option (BitVec 8)) (v : Option (BitVec 3)) (a : BitVec 3)
  /-- MATCH.A.S9: match of slot 9 in an Aligned block: offset 24 - 2 + a, or + v + a in source_literal mode (30 R80, 44 R159). -/
  | matchAS9 (lh : BitVec 3) (footer : Option (BitVec 8)) (v : Option (BitVec 3)) (a : BitVec 3)
  /-- MATCH.A.S10: match of slot 10 in an Aligned block: offset 32 - 2 + 8 h + a (30 R80, 44 R159). -/
  | matchAS10 (lh : BitVec 3) (footer : Option (BitVec 8)) (h : BitVec 1) (a : BitVec 3)
  /-- MATCH.A.S11: match of slot 11 in an Aligned block: offset 48 - 2 + 8 h + a (30 R80, 44 R159). -/
  | matchAS11 (lh : BitVec 3) (footer : Option (BitVec 8)) (h : BitVec 1) (a : BitVec 3)
  /-- MATCH.A.S12: match of slot 12 in an Aligned block: offset 64 - 2 + 8 h + a (30 R80, 44 R159). -/
  | matchAS12 (lh : BitVec 3) (footer : Option (BitVec 8)) (h : BitVec 2) (a : BitVec 3)
  /-- MATCH.A.S13: match of slot 13 in an Aligned block: offset 96 - 2 + 8 h + a (30 R80, 44 R159). -/
  | matchAS13 (lh : BitVec 3) (footer : Option (BitVec 8)) (h : BitVec 2) (a : BitVec 3)
  /-- MATCH.A.S14: match of slot 14 in an Aligned block: offset 128 - 2 + 8 h + a (30 R80, 44 R159). -/
  | matchAS14 (lh : BitVec 3) (footer : Option (BitVec 8)) (h : BitVec 3) (a : BitVec 3)
  /-- MATCH.A.S15: match of slot 15 in an Aligned block: offset 192 - 2 + 8 h + a (30 R80, 44 R159). -/
  | matchAS15 (lh : BitVec 3) (footer : Option (BitVec 8)) (h : BitVec 3) (a : BitVec 3)
  /-- MATCH.A.S16: match of slot 16 in an Aligned block: offset 256 - 2 + 8 h + a (30 R80, 44 R159). -/
  | matchAS16 (lh : BitVec 3) (footer : Option (BitVec 8)) (h : BitVec 4) (a : BitVec 3)
  /-- MATCH.A.S17: match of slot 17 in an Aligned block: offset 384 - 2 + 8 h + a (30 R80, 44 R159). -/
  | matchAS17 (lh : BitVec 3) (footer : Option (BitVec 8)) (h : BitVec 4) (a : BitVec 3)
  /-- MATCH.A.S18: match of slot 18 in an Aligned block: offset 512 - 2 + 8 h + a (30 R80, 44 R159). -/
  | matchAS18 (lh : BitVec 3) (footer : Option (BitVec 8)) (h : BitVec 5) (a : BitVec 3)
  /-- MATCH.A.S19: match of slot 19 in an Aligned block: offset 768 - 2 + 8 h + a (30 R80, 44 R159). -/
  | matchAS19 (lh : BitVec 3) (footer : Option (BitVec 8)) (h : BitVec 5) (a : BitVec 3)
  /-- MATCH.A.S20: match of slot 20 in an Aligned block: offset 1024 - 2 + 8 h + a (30 R80, 44 R159). -/
  | matchAS20 (lh : BitVec 3) (footer : Option (BitVec 8)) (h : BitVec 6) (a : BitVec 3)
  /-- MATCH.A.S21: match of slot 21 in an Aligned block: offset 1536 - 2 + 8 h + a (30 R80, 44 R159). -/
  | matchAS21 (lh : BitVec 3) (footer : Option (BitVec 8)) (h : BitVec 6) (a : BitVec 3)
  /-- MATCH.A.S22: match of slot 22 in an Aligned block: offset 2048 - 2 + 8 h + a (30 R80, 44 R159). -/
  | matchAS22 (lh : BitVec 3) (footer : Option (BitVec 8)) (h : BitVec 7) (a : BitVec 3)
  /-- MATCH.A.S23: match of slot 23 in an Aligned block: offset 3072 - 2 + 8 h + a (30 R80, 44 R159). -/
  | matchAS23 (lh : BitVec 3) (footer : Option (BitVec 8)) (h : BitVec 7) (a : BitVec 3)
  /-- MATCH.A.S24: match of slot 24 in an Aligned block: offset 4096 - 2 + 8 h + a (30 R80, 44 R159). -/
  | matchAS24 (lh : BitVec 3) (footer : Option (BitVec 8)) (h : BitVec 8) (a : BitVec 3)
  /-- MATCH.A.S25: match of slot 25 in an Aligned block: offset 6144 - 2 + 8 h + a (30 R80, 44 R159). -/
  | matchAS25 (lh : BitVec 3) (footer : Option (BitVec 8)) (h : BitVec 8) (a : BitVec 3)
  /-- MATCH.A.S26: match of slot 26 in an Aligned block: offset 8192 - 2 + 8 h + a (30 R80, 44 R159). -/
  | matchAS26 (lh : BitVec 3) (footer : Option (BitVec 8)) (h : BitVec 9) (a : BitVec 3)
  /-- MATCH.A.S27: match of slot 27 in an Aligned block: offset 12288 - 2 + 8 h + a (30 R80, 44 R159). -/
  | matchAS27 (lh : BitVec 3) (footer : Option (BitVec 8)) (h : BitVec 9) (a : BitVec 3)
  /-- MATCH.A.S28: match of slot 28 in an Aligned block: offset 16384 - 2 + 8 h + a (30 R80, 44 R159). -/
  | matchAS28 (lh : BitVec 3) (footer : Option (BitVec 8)) (h : BitVec 10) (a : BitVec 3)
  /-- MATCH.A.S29: match of slot 29 in an Aligned block: offset 24576 - 2 + 8 h + a (30 R80, 44 R159). -/
  | matchAS29 (lh : BitVec 3) (footer : Option (BitVec 8)) (h : BitVec 10) (a : BitVec 3)
  /-- MATCH.A.S30: match of slot 30 in an Aligned block: offset 32768 - 2 + 8 h + a (30 R80, 44 R159). -/
  | matchAS30 (lh : BitVec 3) (footer : Option (BitVec 8)) (h : BitVec 11) (a : BitVec 3)
  /-- MATCH.A.S31: match of slot 31 in an Aligned block: offset 49152 - 2 + 8 h + a (30 R80, 44 R159). -/
  | matchAS31 (lh : BitVec 3) (footer : Option (BitVec 8)) (h : BitVec 11) (a : BitVec 3)
  /-- LENFOOT: length-tree symbol f in 0..248: match length 9 + f (30 R79, 44 R153). -/
  | lenFoot (f : BitVec 8)
  /-- ALIGNSYM: aligned-tree symbol: the low three offset bits (30 R80, 44 R159). -/
  | alignSym (a : BitVec 3)
  /-- ALIGN: the stream element: on to the next bit-frame boundary (30 R83, 41 R92). -/
  | streamAlign
  /-- UNCOMP.REPS: the three repeated offsets of an Uncompressed block header (30 R82, 43 R146). -/
  | uncompReps (r0 : U32) (r1 : U32) (r2 : U32)
  /-- UNCOMP.BYTES: the raw bytes of the current run of an Uncompressed block (30 R82, 44 R163). -/
  | uncompBytes
deriving DecidableEq, Repr

end Sys2Proof
end

