-- ==== Sys2Proof/WellFormed.lean ====
section
/-!
DEFINITION. Which terms of `Instr` stand for an instruction the encoding of 30_encoding.md admits.
A command's operand outside its legal range is NOT ill formed: the command exists and faults
BAD_OPERAND (R68).
-/

namespace Sys2Proof

/-- The opcodes of 30_encoding.md R68. -/
def legalOpcodes : List (BitVec 8) :=
  [0x01, 0x02, 0x03, 0x04, 0x05, 0x06, 0x07, 0x10, 0x11, 0x12, 0x13, 0x14, 0x15, 0x16, 0x17, 0x18, 0x19, 0x1A, 0x1B, 0x1C, 0x1D, 0x20, 0x21, 0x22, 0x30, 0x31, 0x32, 0x33, 0x40, 0x41, 0x50, 0x51, 0x60, 0x70, 0x7F]

/-- A length header and its footer agree: the footer is there exactly when the header is 7, and is a
length-tree symbol 0..248 (30_encoding.md R78, R79). -/
def footerWellFormed (lh : BitVec 3) (footer : Option (BitVec 8)) : Bool :=
  match footer with
  | none => lh != 7
  | some f => lh == 7 && f.toNat ≤ 248

/-- The instruction is one the encoding can state. -/
def Instr.wellFormed : Instr → Bool
  | .seekAbs _ => true
  | .seekRel _ => true
  | .readBytes _ => true
  | .peekBytes _ => true
  | .getPos => true
  | .regRead _ => true
  | .arrayRead _ _ => true
  | .readU8 => true
  | .readI8 => true
  | .readU16LE => true
  | .readU16BE => true
  | .readI16LE => true
  | .readI16BE => true
  | .readU32LE => true
  | .readU32BE => true
  | .readI32LE => true
  | .readI32BE => true
  | .readF32LE => true
  | .readF32BE => true
  | .readF64LE => true
  | .readF64BE => true
  | .read7Bit => true
  | .readString => true
  | .readLzxInt16 => true
  | .readBits _ => true
  | .peekBits _ => true
  | .setBitPos _ => true
  | .align => true
  | .hufBuild _ _ _ => true
  | .hufDecode => true
  | .lzxReset => true
  | .lzxDecompress _ _ => true
  | .frmRun _ _ => true
  | .load _ => true
  | .reset => true
  | .illegal op => !legalOpcodes.contains op
  | .frmExplicit _ _ => true
  | .frmImplicit bs => bs.toNat / 256 != 0xFF
  | .transform _ => true
  | .blockInvalid0 _ => true
  | .blockVerbatim _ => true
  | .blockAligned _ => true
  | .blockUncompressed _ => true
  | .blockInvalid4to7 _ _ => true
  | .alignedLengths _ => true
  | .pretree _ => true
  | .ptDelta s => s.toNat ≤ 16
  | .ptZ4 _ => true
  | .ptZ20 _ => true
  | .ptSame _ s2 => s2.toNat ≤ 19
  | .lit _ => true
  | .matchS0 lh footer => footerWellFormed lh footer
  | .matchS1 lh footer => footerWellFormed lh footer
  | .matchS2 lh footer => footerWellFormed lh footer
  | .matchS3 lh footer => footerWellFormed lh footer
  | .matchVS4 lh footer _ => footerWellFormed lh footer
  | .matchVS5 lh footer _ => footerWellFormed lh footer
  | .matchVS6 lh footer _ => footerWellFormed lh footer
  | .matchVS7 lh footer _ => footerWellFormed lh footer
  | .matchVS8 lh footer _ => footerWellFormed lh footer
  | .matchVS9 lh footer _ => footerWellFormed lh footer
  | .matchVS10 lh footer _ => footerWellFormed lh footer
  | .matchVS11 lh footer _ => footerWellFormed lh footer
  | .matchVS12 lh footer _ => footerWellFormed lh footer
  | .matchVS13 lh footer _ => footerWellFormed lh footer
  | .matchVS14 lh footer _ => footerWellFormed lh footer
  | .matchVS15 lh footer _ => footerWellFormed lh footer
  | .matchVS16 lh footer _ => footerWellFormed lh footer
  | .matchVS17 lh footer _ => footerWellFormed lh footer
  | .matchVS18 lh footer _ => footerWellFormed lh footer
  | .matchVS19 lh footer _ => footerWellFormed lh footer
  | .matchVS20 lh footer _ => footerWellFormed lh footer
  | .matchVS21 lh footer _ => footerWellFormed lh footer
  | .matchVS22 lh footer _ => footerWellFormed lh footer
  | .matchVS23 lh footer _ => footerWellFormed lh footer
  | .matchVS24 lh footer _ => footerWellFormed lh footer
  | .matchVS25 lh footer _ => footerWellFormed lh footer
  | .matchVS26 lh footer _ => footerWellFormed lh footer
  | .matchVS27 lh footer _ => footerWellFormed lh footer
  | .matchVS28 lh footer _ => footerWellFormed lh footer
  | .matchVS29 lh footer _ => footerWellFormed lh footer
  | .matchVS30 lh footer _ => footerWellFormed lh footer
  | .matchVS31 lh footer _ => footerWellFormed lh footer
  | .matchAS4 lh footer _ => footerWellFormed lh footer
  | .matchAS5 lh footer _ => footerWellFormed lh footer
  | .matchAS6 lh footer _ => footerWellFormed lh footer
  | .matchAS7 lh footer _ => footerWellFormed lh footer
  | .matchAS8 lh footer _ _ => footerWellFormed lh footer
  | .matchAS9 lh footer _ _ => footerWellFormed lh footer
  | .matchAS10 lh footer _ _ => footerWellFormed lh footer
  | .matchAS11 lh footer _ _ => footerWellFormed lh footer
  | .matchAS12 lh footer _ _ => footerWellFormed lh footer
  | .matchAS13 lh footer _ _ => footerWellFormed lh footer
  | .matchAS14 lh footer _ _ => footerWellFormed lh footer
  | .matchAS15 lh footer _ _ => footerWellFormed lh footer
  | .matchAS16 lh footer _ _ => footerWellFormed lh footer
  | .matchAS17 lh footer _ _ => footerWellFormed lh footer
  | .matchAS18 lh footer _ _ => footerWellFormed lh footer
  | .matchAS19 lh footer _ _ => footerWellFormed lh footer
  | .matchAS20 lh footer _ _ => footerWellFormed lh footer
  | .matchAS21 lh footer _ _ => footerWellFormed lh footer
  | .matchAS22 lh footer _ _ => footerWellFormed lh footer
  | .matchAS23 lh footer _ _ => footerWellFormed lh footer
  | .matchAS24 lh footer _ _ => footerWellFormed lh footer
  | .matchAS25 lh footer _ _ => footerWellFormed lh footer
  | .matchAS26 lh footer _ _ => footerWellFormed lh footer
  | .matchAS27 lh footer _ _ => footerWellFormed lh footer
  | .matchAS28 lh footer _ _ => footerWellFormed lh footer
  | .matchAS29 lh footer _ _ => footerWellFormed lh footer
  | .matchAS30 lh footer _ _ => footerWellFormed lh footer
  | .matchAS31 lh footer _ _ => footerWellFormed lh footer
  | .lenFoot f => f.toNat ≤ 248
  | .alignSym _ => true
  | .streamAlign => true
  | .uncompReps _ _ _ => true
  | .uncompBytes => true

end Sys2Proof
end

