-- ==== Sys2Proof/Decode.lean ====
section
/-!
DEFINITION. The decoder and, after it, the encoder. A host command is decoded from its record
(30_encoding.md R67 to R70). A bitstream element is decoded from its fields in stream order, each a raw
bit field or a symbol of one of the four trees (the notation of 30_encoding.md R87): the entropy code of
a symbol is a matter of the tree's lengths (R84) and is taken off by the fetch.
-/

namespace Sys2Proof

open Sys2Proof.Machine (extraBits positionBase)

/-- One field of an element as it was read: a raw field of a width, or a symbol of a tree. -/
inductive Field where
  /-- A bit field of `width` bits (or bytes read as bytes, for a chunk header and the repeated offsets). -/
  | raw (width value : Nat)
  /-- A symbol decoded with a tree. -/
  | sym (tree : Tree) (value : Nat)
deriving DecidableEq, Repr

/-- What kind of field comes next. -/
inductive FieldKind where
  /-- A bit field of `width` bits. -/
  | raw (width : Nat)
  /-- A symbol of a tree. -/
  | sym (tree : Tree)
deriving DecidableEq, Repr

/-- Where in the stream an element stands, with all that its decoding depends on besides its fields: for a
main-tree element, whether the block is Aligned and the parameter ALIGNED_EXTRA3_MODE (30_encoding.md R86). -/
inductive Format where
  | chunkHeader | transform | blockHeader | alignedLengths | pretree | pretreeItem
  | mainItem (aligned : Bool) (mode : Extra3Mode)
  | lengthFooter | alignedSymbol | align | uncompReps | uncompBytes
deriving DecidableEq, Repr

/-- What the decoder is given: a command record, or an element's fields in their place. -/
inductive Code where
  /-- A host command (30_encoding.md R67). -/
  | command (c : Command)
  /-- A bitstream element. -/
  | element (f : Format) (fields : List Field)
deriving DecidableEq, Repr

/-- Why the decoder rejects. -/
inductive DecodeError where
  /-- Too few or too many fields. -/
  | fieldCount
  /-- A field of another width or tree than the place asks for. -/
  | fieldKind
  /-- A value that does not fit its field, or a symbol the tree does not code (30_encoding.md R78, R79). -/
  | valueRange
  /-- An implicit chunk header whose first byte is FF (30_encoding.md R71). -/
  | implicitHeaderFF
  /-- A chunk header of 40 bits whose first byte is not FF (30_encoding.md R71). -/
  | explicitHeaderNotFF
deriving DecidableEq, Repr

/-- How many symbols of a tree the encoding uses (30_encoding.md R77 to R80). -/
def codedSymbols : Tree → Nat
  | .pretree => 20
  | .main => 512
  | .length => 249
  | .aligned => 8

/-- The value of one field, if it is of the kind asked for and in range. -/
def fieldValue : FieldKind → Field → Except DecodeError Nat
  | .raw w, .raw w' v => if w ≠ w' then .error .fieldKind else if v < 2 ^ w then .ok v else .error .valueRange
  | .sym t, .sym t' v =>
    if t ≠ t' then .error .fieldKind else if v < codedSymbols t then .ok v else .error .valueRange
  | _, _ => .error .fieldKind

/-- The values of all fields of an element, which must be exactly those its plan names. -/
def fieldValues : List FieldKind → List Field → Except DecodeError (List Nat)
  | [], [] => .ok []
  | k :: ks, f :: fs =>
    match fieldValue k f with
    | .error e => .error e
    | .ok v =>
      match fieldValues ks fs with
      | .error e => .error e
      | .ok vs => .ok (v :: vs)
  | _, _ => .error .fieldCount

/-- The offset fields of a match of a slot (30_encoding.md R80). -/
def offsetPlan (aligned : Bool) (mode : Extra3Mode) (slot : Nat) : List FieldKind :=
  if slot < 4 then []
  else if !aligned then [.raw (extraBits slot)]
  else if extraBits slot < 3 then [.raw (extraBits slot)]
  else if extraBits slot = 3 then
    match mode with
    | .standard => [.sym .aligned]
    | .sourceLiteral => [.raw 3, .sym .aligned]
  else [.raw (extraBits slot - 3), .sym .aligned]

/-- The fields that follow main symbol `m`: none for a literal; for a match, a length footer if its length
header is 7, then the offset fields (30_encoding.md R78). -/
def mainPlan (aligned : Bool) (mode : Extra3Mode) (m : Nat) : List FieldKind :=
  if m < 256 then []
  else (if m % 8 = 7 then [FieldKind.sym .length] else []) ++ offsetPlan aligned mode ((m - 256) / 8)

/-- The fields that follow pretree symbol `s` (30_encoding.md R77). -/
def pretreePlan (s : Nat) : List FieldKind :=
  if s ≤ 16 then []
  else if s = 17 then [.raw 4]
  else if s = 18 then [.raw 5]
  else [.raw 1, .sym .pretree]

/-- The match of slots 4 to 31 in a Verbatim block (30_encoding.md R80), from its extra bits. -/
def verbatimMatch (slot : Nat) (lh : BitVec 3) (footer : Option (BitVec 8)) (v : Nat) : Option Instr :=
  match slot with
  | 4 => some (.matchVS4 lh footer (BitVec.ofNat 1 v))
  | 5 => some (.matchVS5 lh footer (BitVec.ofNat 1 v))
  | 6 => some (.matchVS6 lh footer (BitVec.ofNat 2 v))
  | 7 => some (.matchVS7 lh footer (BitVec.ofNat 2 v))
  | 8 => some (.matchVS8 lh footer (BitVec.ofNat 3 v))
  | 9 => some (.matchVS9 lh footer (BitVec.ofNat 3 v))
  | 10 => some (.matchVS10 lh footer (BitVec.ofNat 4 v))
  | 11 => some (.matchVS11 lh footer (BitVec.ofNat 4 v))
  | 12 => some (.matchVS12 lh footer (BitVec.ofNat 5 v))
  | 13 => some (.matchVS13 lh footer (BitVec.ofNat 5 v))
  | 14 => some (.matchVS14 lh footer (BitVec.ofNat 6 v))
  | 15 => some (.matchVS15 lh footer (BitVec.ofNat 6 v))
  | 16 => some (.matchVS16 lh footer (BitVec.ofNat 7 v))
  | 17 => some (.matchVS17 lh footer (BitVec.ofNat 7 v))
  | 18 => some (.matchVS18 lh footer (BitVec.ofNat 8 v))
  | 19 => some (.matchVS19 lh footer (BitVec.ofNat 8 v))
  | 20 => some (.matchVS20 lh footer (BitVec.ofNat 9 v))
  | 21 => some (.matchVS21 lh footer (BitVec.ofNat 9 v))
  | 22 => some (.matchVS22 lh footer (BitVec.ofNat 10 v))
  | 23 => some (.matchVS23 lh footer (BitVec.ofNat 10 v))
  | 24 => some (.matchVS24 lh footer (BitVec.ofNat 11 v))
  | 25 => some (.matchVS25 lh footer (BitVec.ofNat 11 v))
  | 26 => some (.matchVS26 lh footer (BitVec.ofNat 12 v))
  | 27 => some (.matchVS27 lh footer (BitVec.ofNat 12 v))
  | 28 => some (.matchVS28 lh footer (BitVec.ofNat 13 v))
  | 29 => some (.matchVS29 lh footer (BitVec.ofNat 13 v))
  | 30 => some (.matchVS30 lh footer (BitVec.ofNat 14 v))
  | 31 => some (.matchVS31 lh footer (BitVec.ofNat 14 v))
  | _ => none

/-- The match of slots 4 to 31 in an Aligned block (30_encoding.md R80), from the values of its offset
fields in stream order. -/
def alignedMatch (slot : Nat) (lh : BitVec 3) (footer : Option (BitVec 8)) (xs : List Nat) : Option Instr :=
  match slot, xs with
  | 4, [v] => some (.matchAS4 lh footer (BitVec.ofNat 1 v))
  | 5, [v] => some (.matchAS5 lh footer (BitVec.ofNat 1 v))
  | 6, [v] => some (.matchAS6 lh footer (BitVec.ofNat 2 v))
  | 7, [v] => some (.matchAS7 lh footer (BitVec.ofNat 2 v))
  | 8, [a] => some (.matchAS8 lh footer none (BitVec.ofNat 3 a))
  | 8, [v, a] => some (.matchAS8 lh footer (some (BitVec.ofNat 3 v)) (BitVec.ofNat 3 a))
  | 9, [a] => some (.matchAS9 lh footer none (BitVec.ofNat 3 a))
  | 9, [v, a] => some (.matchAS9 lh footer (some (BitVec.ofNat 3 v)) (BitVec.ofNat 3 a))
  | 10, [h, a] => some (.matchAS10 lh footer (BitVec.ofNat 1 h) (BitVec.ofNat 3 a))
  | 11, [h, a] => some (.matchAS11 lh footer (BitVec.ofNat 1 h) (BitVec.ofNat 3 a))
  | 12, [h, a] => some (.matchAS12 lh footer (BitVec.ofNat 2 h) (BitVec.ofNat 3 a))
  | 13, [h, a] => some (.matchAS13 lh footer (BitVec.ofNat 2 h) (BitVec.ofNat 3 a))
  | 14, [h, a] => some (.matchAS14 lh footer (BitVec.ofNat 3 h) (BitVec.ofNat 3 a))
  | 15, [h, a] => some (.matchAS15 lh footer (BitVec.ofNat 3 h) (BitVec.ofNat 3 a))
  | 16, [h, a] => some (.matchAS16 lh footer (BitVec.ofNat 4 h) (BitVec.ofNat 3 a))
  | 17, [h, a] => some (.matchAS17 lh footer (BitVec.ofNat 4 h) (BitVec.ofNat 3 a))
  | 18, [h, a] => some (.matchAS18 lh footer (BitVec.ofNat 5 h) (BitVec.ofNat 3 a))
  | 19, [h, a] => some (.matchAS19 lh footer (BitVec.ofNat 5 h) (BitVec.ofNat 3 a))
  | 20, [h, a] => some (.matchAS20 lh footer (BitVec.ofNat 6 h) (BitVec.ofNat 3 a))
  | 21, [h, a] => some (.matchAS21 lh footer (BitVec.ofNat 6 h) (BitVec.ofNat 3 a))
  | 22, [h, a] => some (.matchAS22 lh footer (BitVec.ofNat 7 h) (BitVec.ofNat 3 a))
  | 23, [h, a] => some (.matchAS23 lh footer (BitVec.ofNat 7 h) (BitVec.ofNat 3 a))
  | 24, [h, a] => some (.matchAS24 lh footer (BitVec.ofNat 8 h) (BitVec.ofNat 3 a))
  | 25, [h, a] => some (.matchAS25 lh footer (BitVec.ofNat 8 h) (BitVec.ofNat 3 a))
  | 26, [h, a] => some (.matchAS26 lh footer (BitVec.ofNat 9 h) (BitVec.ofNat 3 a))
  | 27, [h, a] => some (.matchAS27 lh footer (BitVec.ofNat 9 h) (BitVec.ofNat 3 a))
  | 28, [h, a] => some (.matchAS28 lh footer (BitVec.ofNat 10 h) (BitVec.ofNat 3 a))
  | 29, [h, a] => some (.matchAS29 lh footer (BitVec.ofNat 10 h) (BitVec.ofNat 3 a))
  | 30, [h, a] => some (.matchAS30 lh footer (BitVec.ofNat 11 h) (BitVec.ofNat 3 a))
  | 31, [h, a] => some (.matchAS31 lh footer (BitVec.ofNat 11 h) (BitVec.ofNat 3 a))
  | _, _ => none

/-- A match of any slot, from the values of its offset fields (30_encoding.md R80). -/
def slotMatch (aligned : Bool) (slot : Nat) (lh : BitVec 3) (footer : Option (BitVec 8)) (xs : List Nat) :
    Option Instr :=
  match slot with
  | 0 => some (.matchS0 lh footer)
  | 1 => some (.matchS1 lh footer)
  | 2 => some (.matchS2 lh footer)
  | 3 => some (.matchS3 lh footer)
  | s => if aligned then alignedMatch s lh footer xs else verbatimMatch s lh footer (xs.headD 0)

/-- The element of main symbol `m` and the values of the fields that follow it (30_encoding.md R78). -/
def mainInstr (aligned : Bool) (m : Nat) (vs : List Nat) : Option Instr :=
  if m < 256 then some (.lit (BitVec.ofNat 8 m))
  else if m % 8 = 7 then
    slotMatch aligned ((m - 256) / 8) 7 (some (BitVec.ofNat 8 (vs.headD 0))) vs.tail
  else slotMatch aligned ((m - 256) / 8) (BitVec.ofNat 3 (m % 8)) none vs

/-- The block header of a type (30_encoding.md R74). -/
def blockInstr (type : Nat) (size : BitVec 24) : Instr :=
  if type = 0 then .blockInvalid0 size
  else if type = 1 then .blockVerbatim size
  else if type = 2 then .blockAligned size
  else if type = 3 then .blockUncompressed size
  else .blockInvalid4to7 (BitVec.ofNat 2 (type - 4)) size

/-- The pretree-coded item of a symbol and the values of the fields that follow it (30_encoding.md R77). -/
def pretreeInstr (s : Nat) (vs : List Nat) : Instr :=
  if s ≤ 16 then .ptDelta (BitVec.ofNat 5 s)
  else if s = 17 then .ptZ4 (BitVec.ofNat 4 (vs.headD 0))
  else if s = 18 then .ptZ20 (BitVec.ofNat 5 (vs.headD 0))
  else .ptSame (BitVec.ofNat 1 (vs.headD 0)) (BitVec.ofNat 5 (vs.tail.headD 0))

/-- The chunk header of its fields: explicit with its first byte FF, else implicit (30_encoding.md R71). -/
def chunkInstr : List Field → Except DecodeError Instr
  | [f] =>
    match fieldValues [.raw 16] [f] with
    | .error e => .error e
    | .ok vs =>
      if vs.headD 0 / 256 = 0xFF then .error .implicitHeaderFF else .ok (.frmImplicit (BitVec.ofNat 16 (vs.headD 0)))
  | fs =>
    match fieldValues [.raw 8, .raw 16, .raw 16] fs with
    | .error e => .error e
    | .ok vs =>
      if vs.headD 0 = 0xFF then .ok (.frmExplicit (BitVec.ofNat 16 (vs.getD 1 0)) (BitVec.ofNat 16 (vs.getD 2 0)))
      else .error .explicitHeaderNotFF

/-- The element of its fields, in its place. Total: fields that are no element are rejected by name. -/
def decodeElement (fmt : Format) (fields : List Field) : Except DecodeError Instr :=
  match fmt with
  | .chunkHeader => chunkInstr fields
  | .transform => (fieldValues [.raw 1] fields).map fun vs => .transform (BitVec.ofNat 1 (vs.headD 0))
  | .blockHeader =>
    (fieldValues [.raw 3, .raw 16, .raw 8] fields).map fun vs =>
      blockInstr (vs.headD 0) (BitVec.ofNat 24 (vs.getD 1 0 * 256 + vs.getD 2 0))
  | .alignedLengths =>
    (fieldValues (List.replicate 8 (.raw 3)) fields).map fun vs =>
      .alignedLengths (Vector.ofFn fun i : Fin 8 => BitVec.ofNat 3 (vs.getD i 0))
  | .pretree =>
    (fieldValues (List.replicate 20 (.raw 4)) fields).map fun vs =>
      .pretree (Vector.ofFn fun i : Fin 20 => BitVec.ofNat 4 (vs.getD i 0))
  | .pretreeItem =>
    match fields with
    | .sym t s :: rest =>
      match fieldValue (.sym .pretree) (.sym t s) with
      | .error e => .error e
      | .ok s => (fieldValues (pretreePlan s) rest).map (pretreeInstr s)
    | .raw _ _ :: _ => .error .fieldKind
    | [] => .error .fieldCount
  | .mainItem aligned mode =>
    match fields with
    | .sym t m :: rest =>
      match fieldValue (.sym .main) (.sym t m) with
      | .error e => .error e
      | .ok m =>
        match fieldValues (mainPlan aligned mode m) rest with
        | .error e => .error e
        | .ok vs =>
          match mainInstr aligned m vs with
          | some i => .ok i
          | none => .error .valueRange
    | .raw _ _ :: _ => .error .fieldKind
    | [] => .error .fieldCount
  | .lengthFooter => (fieldValues [.sym .length] fields).map fun vs => .lenFoot (BitVec.ofNat 8 (vs.headD 0))
  | .alignedSymbol => (fieldValues [.sym .aligned] fields).map fun vs => .alignSym (BitVec.ofNat 3 (vs.headD 0))
  | .align => (fieldValues [] fields).map fun _ => .streamAlign
  | .uncompReps =>
    (fieldValues [.raw 32, .raw 32, .raw 32] fields).map fun vs =>
      .uncompReps (BitVec.ofNat 32 (vs.headD 0)) (BitVec.ofNat 32 (vs.getD 1 0)) (BitVec.ofNat 32 (vs.getD 2 0))
  | .uncompBytes => (fieldValues [] fields).map fun _ => .uncompBytes

/-- The command of a record (30_encoding.md R68): every record is some command, an opcode outside the map
an illegal one (R69). Operands the format does not use are ignored (R67). -/
def decodeCommand (c : Command) : Instr :=
  match c.opcode with
  | 0x01 => .seekAbs c.a
  | 0x02 => .seekRel c.a
  | 0x03 => .readBytes c.a
  | 0x04 => .peekBytes c.a
  | 0x05 => .getPos
  | 0x06 => .regRead c.a
  | 0x07 => .arrayRead c.a c.b
  | 0x10 => .readU8
  | 0x11 => .readI8
  | 0x12 => .readU16LE
  | 0x13 => .readU16BE
  | 0x14 => .readI16LE
  | 0x15 => .readI16BE
  | 0x16 => .readU32LE
  | 0x17 => .readU32BE
  | 0x18 => .readI32LE
  | 0x19 => .readI32BE
  | 0x1A => .readF32LE
  | 0x1B => .readF32BE
  | 0x1C => .readF64LE
  | 0x1D => .readF64BE
  | 0x20 => .read7Bit
  | 0x21 => .readString
  | 0x22 => .readLzxInt16
  | 0x30 => .readBits c.a
  | 0x31 => .peekBits c.a
  | 0x32 => .setBitPos c.a
  | 0x33 => .align
  | 0x40 => .hufBuild c.a c.b c.data
  | 0x41 => .hufDecode
  | 0x50 => .lzxReset
  | 0x51 => .lzxDecompress c.a c.b
  | 0x60 => .frmRun c.a c.b
  | 0x70 => .load c.data
  | 0x7F => .reset
  | op => .illegal op

/-- The decoder. -/
def decode : Code → Except DecodeError Instr
  | .command c => .ok (decodeCommand c)
  | .element fmt fields => decodeElement fmt fields

/-! ## The encoder -/

/-- The main symbol and fields of a match (30_encoding.md R78, R80). -/
def matchCode (aligned : Bool) (mode : Extra3Mode) (slot : Nat) (lh : BitVec 3) (footer : Option (BitVec 8))
    (offsetFields : List Field) : Code :=
  .element (.mainItem aligned mode)
    (.sym .main (256 + 8 * slot + lh.toNat) ::
      ((match footer with
        | none => []
        | some f => [Field.sym .length f.toNat]) ++ offsetFields))

/-- The raw field of a bit vector. -/
def rawField {w : Nat} (v : BitVec w) : Field :=
  .raw w v.toNat

/-- The aligned symbol of a match (30_encoding.md R80). -/
def alignedField (a : BitVec 3) : Field :=
  .sym .aligned a.toNat

/-- An Aligned match of a slot with EXTRA_BITS 3: with verbatim bits it is the source_literal form, without
them the standard form (30_encoding.md R80). -/
def alignedExtra3Code (slot : Nat) (lh : BitVec 3) (footer : Option (BitVec 8)) (v : Option (BitVec 3))
    (a : BitVec 3) : Code :=
  match v with
  | none => matchCode true .standard slot lh footer [alignedField a]
  | some v => matchCode true .sourceLiteral slot lh footer [rawField v, alignedField a]

/-- A block header's fields (30_encoding.md R74). -/
def blockCode (type : Nat) (size : BitVec 24) : Code :=
  .element .blockHeader [.raw 3 type, .raw 16 (size.toNat / 256), .raw 8 (size.toNat % 256)]

/-- The code of an instruction, from the encodings of 30_encoding.md R67 to R83. -/
def encode : Instr → Code
  | .seekAbs a => .command { opcode := 0x01, a := a }
  | .seekRel d => .command { opcode := 0x02, a := d }
  | .readBytes n => .command { opcode := 0x03, a := n }
  | .peekBytes n => .command { opcode := 0x04, a := n }
  | .getPos => .command { opcode := 0x05 }
  | .regRead a => .command { opcode := 0x06, a := a }
  | .arrayRead a b => .command { opcode := 0x07, a := a, b := b }
  | .readU8 => .command { opcode := 0x10 }
  | .readI8 => .command { opcode := 0x11 }
  | .readU16LE => .command { opcode := 0x12 }
  | .readU16BE => .command { opcode := 0x13 }
  | .readI16LE => .command { opcode := 0x14 }
  | .readI16BE => .command { opcode := 0x15 }
  | .readU32LE => .command { opcode := 0x16 }
  | .readU32BE => .command { opcode := 0x17 }
  | .readI32LE => .command { opcode := 0x18 }
  | .readI32BE => .command { opcode := 0x19 }
  | .readF32LE => .command { opcode := 0x1A }
  | .readF32BE => .command { opcode := 0x1B }
  | .readF64LE => .command { opcode := 0x1C }
  | .readF64BE => .command { opcode := 0x1D }
  | .read7Bit => .command { opcode := 0x20 }
  | .readString => .command { opcode := 0x21 }
  | .readLzxInt16 => .command { opcode := 0x22 }
  | .readBits n => .command { opcode := 0x30, a := n }
  | .peekBits n => .command { opcode := 0x31, a := n }
  | .setBitPos v => .command { opcode := 0x32, a := v }
  | .align => .command { opcode := 0x33 }
  | .hufBuild n tb data => .command { opcode := 0x40, a := n, b := tb, data := data }
  | .hufDecode => .command { opcode := 0x41 }
  | .lzxReset => .command { opcode := 0x50 }
  | .lzxDecompress fs bs => .command { opcode := 0x51, a := fs, b := bs }
  | .frmRun clen dlen => .command { opcode := 0x60, a := clen, b := dlen }
  | .load data => .command { opcode := 0x70, data := data }
  | .reset => .command { opcode := 0x7F }
  | .illegal op => .command { opcode := op }
  | .frmExplicit fs bs => .element .chunkHeader [.raw 8 0xFF, rawField fs, rawField bs]
  | .frmImplicit bs => .element .chunkHeader [rawField bs]
  | .transform t => .element .transform [rawField t]
  | .blockInvalid0 size => blockCode 0 size
  | .blockVerbatim size => blockCode 1 size
  | .blockAligned size => blockCode 2 size
  | .blockUncompressed size => blockCode 3 size
  | .blockInvalid4to7 t size => blockCode (4 + t.toNat) size
  | .alignedLengths a => .element .alignedLengths (a.toList.map rawField)
  | .pretree p => .element .pretree (p.toList.map rawField)
  | .ptDelta s => .element .pretreeItem [.sym .pretree s.toNat]
  | .ptZ4 z => .element .pretreeItem [.sym .pretree 17, rawField z]
  | .ptZ20 z => .element .pretreeItem [.sym .pretree 18, rawField z]
  | .ptSame z s2 => .element .pretreeItem [.sym .pretree 19, rawField z, .sym .pretree s2.toNat]
  | .lit c => .element (.mainItem false .standard) [.sym .main c.toNat]
  | .matchS0 lh footer => matchCode false .standard 0 lh footer []
  | .matchS1 lh footer => matchCode false .standard 1 lh footer []
  | .matchS2 lh footer => matchCode false .standard 2 lh footer []
  | .matchS3 lh footer => matchCode false .standard 3 lh footer []
  | .matchVS4 lh footer v => matchCode false .standard 4 lh footer [rawField v]
  | .matchVS5 lh footer v => matchCode false .standard 5 lh footer [rawField v]
  | .matchVS6 lh footer v => matchCode false .standard 6 lh footer [rawField v]
  | .matchVS7 lh footer v => matchCode false .standard 7 lh footer [rawField v]
  | .matchVS8 lh footer v => matchCode false .standard 8 lh footer [rawField v]
  | .matchVS9 lh footer v => matchCode false .standard 9 lh footer [rawField v]
  | .matchVS10 lh footer v => matchCode false .standard 10 lh footer [rawField v]
  | .matchVS11 lh footer v => matchCode false .standard 11 lh footer [rawField v]
  | .matchVS12 lh footer v => matchCode false .standard 12 lh footer [rawField v]
  | .matchVS13 lh footer v => matchCode false .standard 13 lh footer [rawField v]
  | .matchVS14 lh footer v => matchCode false .standard 14 lh footer [rawField v]
  | .matchVS15 lh footer v => matchCode false .standard 15 lh footer [rawField v]
  | .matchVS16 lh footer v => matchCode false .standard 16 lh footer [rawField v]
  | .matchVS17 lh footer v => matchCode false .standard 17 lh footer [rawField v]
  | .matchVS18 lh footer v => matchCode false .standard 18 lh footer [rawField v]
  | .matchVS19 lh footer v => matchCode false .standard 19 lh footer [rawField v]
  | .matchVS20 lh footer v => matchCode false .standard 20 lh footer [rawField v]
  | .matchVS21 lh footer v => matchCode false .standard 21 lh footer [rawField v]
  | .matchVS22 lh footer v => matchCode false .standard 22 lh footer [rawField v]
  | .matchVS23 lh footer v => matchCode false .standard 23 lh footer [rawField v]
  | .matchVS24 lh footer v => matchCode false .standard 24 lh footer [rawField v]
  | .matchVS25 lh footer v => matchCode false .standard 25 lh footer [rawField v]
  | .matchVS26 lh footer v => matchCode false .standard 26 lh footer [rawField v]
  | .matchVS27 lh footer v => matchCode false .standard 27 lh footer [rawField v]
  | .matchVS28 lh footer v => matchCode false .standard 28 lh footer [rawField v]
  | .matchVS29 lh footer v => matchCode false .standard 29 lh footer [rawField v]
  | .matchVS30 lh footer v => matchCode false .standard 30 lh footer [rawField v]
  | .matchVS31 lh footer v => matchCode false .standard 31 lh footer [rawField v]
  | .matchAS4 lh footer v => matchCode true .standard 4 lh footer [rawField v]
  | .matchAS5 lh footer v => matchCode true .standard 5 lh footer [rawField v]
  | .matchAS6 lh footer v => matchCode true .standard 6 lh footer [rawField v]
  | .matchAS7 lh footer v => matchCode true .standard 7 lh footer [rawField v]
  | .matchAS8 lh footer v a => alignedExtra3Code 8 lh footer v a
  | .matchAS9 lh footer v a => alignedExtra3Code 9 lh footer v a
  | .matchAS10 lh footer h a => matchCode true .standard 10 lh footer [rawField h, alignedField a]
  | .matchAS11 lh footer h a => matchCode true .standard 11 lh footer [rawField h, alignedField a]
  | .matchAS12 lh footer h a => matchCode true .standard 12 lh footer [rawField h, alignedField a]
  | .matchAS13 lh footer h a => matchCode true .standard 13 lh footer [rawField h, alignedField a]
  | .matchAS14 lh footer h a => matchCode true .standard 14 lh footer [rawField h, alignedField a]
  | .matchAS15 lh footer h a => matchCode true .standard 15 lh footer [rawField h, alignedField a]
  | .matchAS16 lh footer h a => matchCode true .standard 16 lh footer [rawField h, alignedField a]
  | .matchAS17 lh footer h a => matchCode true .standard 17 lh footer [rawField h, alignedField a]
  | .matchAS18 lh footer h a => matchCode true .standard 18 lh footer [rawField h, alignedField a]
  | .matchAS19 lh footer h a => matchCode true .standard 19 lh footer [rawField h, alignedField a]
  | .matchAS20 lh footer h a => matchCode true .standard 20 lh footer [rawField h, alignedField a]
  | .matchAS21 lh footer h a => matchCode true .standard 21 lh footer [rawField h, alignedField a]
  | .matchAS22 lh footer h a => matchCode true .standard 22 lh footer [rawField h, alignedField a]
  | .matchAS23 lh footer h a => matchCode true .standard 23 lh footer [rawField h, alignedField a]
  | .matchAS24 lh footer h a => matchCode true .standard 24 lh footer [rawField h, alignedField a]
  | .matchAS25 lh footer h a => matchCode true .standard 25 lh footer [rawField h, alignedField a]
  | .matchAS26 lh footer h a => matchCode true .standard 26 lh footer [rawField h, alignedField a]
  | .matchAS27 lh footer h a => matchCode true .standard 27 lh footer [rawField h, alignedField a]
  | .matchAS28 lh footer h a => matchCode true .standard 28 lh footer [rawField h, alignedField a]
  | .matchAS29 lh footer h a => matchCode true .standard 29 lh footer [rawField h, alignedField a]
  | .matchAS30 lh footer h a => matchCode true .standard 30 lh footer [rawField h, alignedField a]
  | .matchAS31 lh footer h a => matchCode true .standard 31 lh footer [rawField h, alignedField a]
  | .lenFoot f => .element .lengthFooter [.sym .length f.toNat]
  | .alignSym a => .element .alignedSymbol [alignedField a]
  | .streamAlign => .element .align []
  | .uncompReps r0 r1 r2 => .element .uncompReps [rawField r0, rawField r1, rawField r2]
  | .uncompBytes => .element .uncompBytes []

/-! ## The bits of a stream -/

/-- The `w` bits of a number, most significant first (20_memory.md R51). -/
def bitsOf : (w : Nat) → Nat → List Bool
  | 0, _ => []
  | w + 1, v => v.testBit w :: bitsOf w v

/-- The number of a bit list, most significant bit first (20_memory.md R51). -/
def ofBits (bits : List Bool) : Nat :=
  bits.foldl (fun r b => 2 * r + b.toNat) 0

/-- Bits as bytes of STORE: 16-bit frames, each stored low byte first and filled from bit 15 down; the last
frame is filled up with zero bits (20_memory.md R50). The first argument bounds the number of frames. -/
def packFrames : Nat → List Bool → List Byte
  | 0, _ => []
  | n + 1, bits =>
    if bits.isEmpty then []
    else
      let w := ofBits ((bits ++ List.replicate 16 false).take 16)
      BitVec.ofNat 8 w :: BitVec.ofNat 8 (w / 256) :: packFrames n (bits.drop 16)

/-! ## Opcode-table words -/

/-- The field of value 0 of a kind: an operand field the opcode table gives no bits. -/
def zeroField : FieldKind → Field
  | .raw w => .raw w 0
  | .sym t => .sym t 0

/-- The instruction that the decoder reads from an opcode-table word: 8 bits are the opcode of a host command
whose operands are all 0, 16 bits hold the 9-bit main symbol of a bitstream element of a Verbatim block whose
following fields are all 0. The MATCH.A rows have the words of the MATCH.V rows: the block type, not the
word, tells them apart (30_encoding.md R86). -/
def decodeTableWord (nbits w : Nat) : Option Instr :=
  if nbits = 8 then
    if w < 256 then some (decodeCommand { opcode := BitVec.ofNat 8 w }) else none
  else if nbits = 16 then
    match decode (.element (.mainItem false .standard)
        (.sym .main w :: (mainPlan false .standard w).map zeroField)) with
    | .ok i => some i
    | .error _ => none
  else none

end Sys2Proof
end

