-- ==== Sys2Proof/Machine/State.lean ====
section
/-!
DEFINITION. The state of the core as plain data: everything 10_state.md gives the machine, the model's own
fields for the host's side (pending commands, the last response) and for the temporaries of the command being
executed, the causes of a fault, and the ways a step can stop. INVENTORY.md lists every field with its rule.
-/

namespace Sys2Proof.Machine

/-- FAULT_CLASS by name (60_exceptions.md R173); the numeric codes are in Machine/Flags.lean. -/
inductive FaultClass where
  | none
  /-- Reserved, never raised. -/
  | invalidMagic
  /-- Reserved, never raised. -/
  | truncatedFile
  | unsupportedFeature | corruptStream | corruptHuffmanTable | malformedVarint
  /-- Reserved, never raised. -/
  | invalidReaderIndex
  /-- Reserved, never raised. -/
  | unknownType
  | outOfBounds
  /-- Reserved, never raised (43_lzx_blocks.md R143). -/
  | truncatedStream
  | badCommand
deriving DecidableEq, Repr

/-- The causes a rule raises, class and cause in one (60_exceptions.md R174). TruncatedStream/FRAME_SHORTFALL
is not among them: no rule raises it (43_lzx_blocks.md R143). -/
inductive Cause where
  | transformBitSet
  | frameSizeRange | invalidBlockType | pretreeRunOvershoot | pretreeBadSameSymbol | badMatchOffset
  | unwrittenWindowRead | matchOverrun | windowOverrun | uncompressedOverrun | outputLengthMismatch
  | buildOverrun | buildIncomplete | decodeUnfilled | decodeExhausted | tableNotBuilt
  | noTerminator
  | readPastEnd
  | illegalOpcode | badOperand | reservedRegister
deriving DecidableEq, Repr

/-- Why the MODEL stops. No command raises one from a state a run reaches (notes/assumptions/12.md); a fault
of the SPEC is no stop but a next state (60_exceptions.md R176). All four are safe: the model stops where the
spec says nothing. -/
inductive Fault where
  /-- A loop ran out of the bound its rule gives. Raised by the engine's loops; never by a command, since every
  command ends (70_reset_and_hazards.md R194). Safe. -/
  | fuelExhausted
  /-- A window write outside cells 0..65535, an address the spec says does not exist (10_state.md R41). Raised by
  LIT, a match or UNCOMP.BYTES run alone at a WINDOW_POSN the run's own check excludes. Safe. -/
  | windowAddress
  /-- An element run where the engine does not read one: LIT with no byte left in its run, a pretree item with no
  entry left in its range. Raised by LIT and PT.DELTA, PT.Z4, PT.Z20, PT.SAME run alone. Safe. -/
  | outOfContext
  /-- A symbol that the encoding gives no element (main symbol 512 or more, length symbol 249). Raised by the
  fetch of an element; such symbols have length 0 and are never decoded (30_encoding.md R78, R79). Safe. -/
  | undecodable
deriving DecidableEq, Repr

/-- Why the model refuses an instruction. -/
inductive Refusal where
  /-- The instruction has no meaning in this model yet. Raised by no arm of this model. Safe. -/
  | notModelled (mnemonic : String)
deriving DecidableEq, Repr

/-- How a procedure of the core ends early: it raises a fault of the spec (00_scope.md R13), or the model stops. -/
inductive Stop where
  /-- `raise Fault(C, K)`. -/
  | raise (c : Cause)
  /-- The model stops. -/
  | halt (f : Fault)
deriving DecidableEq, Repr

/-- The result of a command (00_scope.md R14). -/
inductive Result where
  /-- The empty result. -/
  | empty
  /-- An unsigned number or a bit pattern. -/
  | nat (n : Nat)
  /-- A signed number. -/
  | int (z : Int)
  /-- A byte sequence. -/
  | bytes (bs : List Byte)
  /-- The pair of cursors (41_buffer.md R97). -/
  | position (byteOffset bitOffset : Nat)
  /-- An unwritten array element (10_state.md R37). -/
  | unwritten
deriving DecidableEq, Repr

/-- The response of a command (00_scope.md R18). -/
inductive Response where
  | ok (r : Result)
  | fault (c : Cause)
  | refused
deriving DecidableEq, Repr

/-- One code placed in a decode table: symbol `sym` has the code `code` of `len` bits (42_huffman.md R129). -/
structure Leaf where
  sym : Nat
  len : Nat
  code : Nat
deriving DecidableEq, Repr

/-- A decode table and its VALID flag (10_state.md R30). The table is held as the codes the build placed
(42_huffman.md R124 leaves the form free; notes/assumptions/2.md). -/
structure Table where
  valid : Bool := false
  leaves : List Leaf := []
deriving DecidableEq, Repr

/-- A sparse memory: (address, byte) pairs, addresses strictly rising. -/
abbrev Memory := List Host.Cell

/-- The temporaries of the command being executed (10_state.md R38), all 0 between commands. -/
structure Temps where
  /-- The opcode of the current command (60_exceptions.md R175). -/
  opcode : BitVec 8 := 0
  /-- chunk_start of LZX_DECOMPRESS (43_lzx_blocks.md R139). -/
  chunkStart : Nat := 0
  /-- frame_size of the chunk (43 R139, 45_framer.md R166). -/
  fs : Nat := 0
  /-- block_size of the chunk (43 R139, 45 R166). -/
  bs : Nat := 0
  /-- Bytes still owed to the output frame (43 R139). -/
  togo : Nat := 0
  /-- Bytes left in the current run (44_lzx_decode.md R150). -/
  run : Nat := 0
  /-- The array X of ReadLengths (43 R147). -/
  array : LenArray := .main
  /-- The index i of ReadLengths (43 R147). -/
  idx : Nat := 0
  /-- The end of the range of ReadLengths (43 R147). -/
  last : Nat := 0
  /-- The length L of the match being decoded (44 R153). -/
  matchLen : Nat := 0
  /-- The offset off of the match being decoded (44 R154 to R159). -/
  matchOff : Nat := 0
deriving DecidableEq, Repr

/-- The state of the core. -/
structure State where
  /-- STORE (10_state.md R19): the bytes that are not 0, by address; an address below STORE_LEN that is not
  listed holds 0 (notes/assumptions/1.md). -/
  store : Memory
  /-- STORE_LEN (10 R19). -/
  storeLen : U32
  /-- BYTE_OFFSET (10 R20). -/
  byteOffset : U32
  /-- BIT_OFFSET (10 R20). -/
  bitOffset : BitVec 4
  /-- REP0 (10 R23). -/
  rep0 : U32
  /-- REP1 (10 R23). -/
  rep1 : U32
  /-- REP2 (10 R23). -/
  rep2 : U32
  /-- HEADER_READ (10 R24). -/
  headerRead : Bool
  /-- BLOCK_TYPE (10 R25). -/
  blockType : BitVec 3
  /-- BLOCK_REMAINING (10 R26). -/
  blockRemaining : BitVec 24
  /-- WINDOW (10 R27): the written cells, by address. -/
  window : Memory
  /-- WINDOW_POSN (10 R28). -/
  windowPosn : BitVec 17
  /-- MAIN_LEN (10 R29). -/
  mainLen : Vector (BitVec 5) 656
  /-- LENGTH_LEN (10 R29). -/
  lengthLen : Vector (BitVec 5) 250
  /-- ALIGNED_LEN (10 R29); none is `unwritten`. -/
  alignedLen : Vector (Option (BitVec 3)) 8
  /-- PRETREE_LEN (10 R29); none is `unwritten`. -/
  pretreeLen : Vector (Option (BitVec 4)) 20
  /-- PRETREE_TABLE (10 R30). -/
  pretreeTable : Table
  /-- MAIN_TABLE (10 R30). -/
  mainTable : Table
  /-- LENGTH_TABLE (10 R30). -/
  lengthTable : Table
  /-- ALIGNED_TABLE (10 R30). -/
  alignedTable : Table
  /-- FRM_CONSUMED (10 R32). -/
  frmConsumed : BitVec 33
  /-- FRM_OUT (10 R32). -/
  frmOut : List Byte
  /-- HOST_N (10 R33). -/
  hostN : BitVec 11
  /-- HOST_TB (10 R33). -/
  hostTb : BitVec 5
  /-- HOST_LEN (10 R33). -/
  hostLen : Vector (BitVec 5) 1024
  /-- HOST_TABLE with HOST_VALID (10 R33). -/
  hostTable : Table
  /-- STATUS (10 R34): true is FAULTED, false is IDLE. -/
  faulted : Bool
  /-- FAULT_CLASS (10 R35). -/
  faultClass : BitVec 4
  /-- FAULT_CAUSE (10 R35). -/
  faultCause : BitVec 8
  /-- FAULT_OPCODE (10 R35). -/
  faultOpcode : BitVec 8
  /-- FAULT_BYTE_OFFSET (10 R35). -/
  faultByteOffset : U32
  /-- FAULT_BIT_OFFSET (10 R35). -/
  faultBitOffset : BitVec 4
  /-- The parameters of the instance (00_scope.md R8): never written. -/
  params : Params
  /-- MODEL: the host's commands the core has not taken yet, oldest first (notes/assumptions/5.md). -/
  pending : List Command
  /-- MODEL: the last response (00_scope.md R18; notes/assumptions/8.md). -/
  response : Option Response
  /-- MODEL: the temporaries of the current command (10 R38; notes/assumptions/7.md). -/
  tmp : Temps
deriving DecidableEq, Repr

/-- The machine right after reset (70_reset_and_hazards.md R187), with both parameters at their default
(00_scope.md R7). HOST_TB, HOST_LEN and the tables' codes are unspecified there (R188): 0 and none is the
model's choice (notes/assumptions/3.md). -/
def State.reset : State where
  store := []
  storeLen := 0
  byteOffset := 0
  bitOffset := 0
  rep0 := 1
  rep1 := 1
  rep2 := 1
  headerRead := false
  blockType := 0
  blockRemaining := 0
  window := []
  windowPosn := 0
  mainLen := Vector.replicate 656 0
  lengthLen := Vector.replicate 250 0
  alignedLen := Vector.replicate 8 none
  pretreeLen := Vector.replicate 20 none
  pretreeTable := {}
  mainTable := {}
  lengthTable := {}
  alignedTable := {}
  frmConsumed := 0
  frmOut := []
  hostN := 0
  hostTb := 0
  hostLen := Vector.replicate 1024 0
  hostTable := {}
  faulted := false
  faultClass := 0
  faultCause := 0
  faultOpcode := 0
  faultByteOffset := 0
  faultBitOffset := 0
  params := {}
  pending := []
  response := none
  tmp := {}

end Sys2Proof.Machine
end

