-- ==== Sys2Proof/Machine/Flags.lean ====
section
/-!
DEFINITION. The codes and flag words. The core has no condition codes: its only flags are HEADER_READ, the
VALID flags and STATUS (10_state.md R39). Here are the fault codes (60_exceptions.md R173, R174), the STATUS
word and the VALID word as REG_READ shows them (10 R36).
-/

namespace Sys2Proof.Machine

/-- The numeric code of a fault class (60_exceptions.md R173). -/
def FaultClass.code : FaultClass → BitVec 4
  | .none => 0
  | .invalidMagic => 1
  | .truncatedFile => 2
  | .unsupportedFeature => 3
  | .corruptStream => 4
  | .corruptHuffmanTable => 5
  | .malformedVarint => 6
  | .invalidReaderIndex => 7
  | .unknownType => 8
  | .outOfBounds => 9
  | .truncatedStream => 10
  | .badCommand => 11

/-- The class of a cause (60_exceptions.md R174). -/
def Cause.faultClass : Cause → FaultClass
  | .transformBitSet => .unsupportedFeature
  | .frameSizeRange => .corruptStream
  | .invalidBlockType => .corruptStream
  | .pretreeRunOvershoot => .corruptStream
  | .pretreeBadSameSymbol => .corruptStream
  | .badMatchOffset => .corruptStream
  | .unwrittenWindowRead => .corruptStream
  | .matchOverrun => .corruptStream
  | .windowOverrun => .corruptStream
  | .uncompressedOverrun => .corruptStream
  | .outputLengthMismatch => .corruptStream
  | .buildOverrun => .corruptHuffmanTable
  | .buildIncomplete => .corruptHuffmanTable
  | .decodeUnfilled => .corruptHuffmanTable
  | .decodeExhausted => .corruptHuffmanTable
  | .tableNotBuilt => .corruptHuffmanTable
  | .noTerminator => .malformedVarint
  | .readPastEnd => .outOfBounds
  | .illegalOpcode => .badCommand
  | .badOperand => .badCommand
  | .reservedRegister => .badCommand

/-- The numeric code of a cause within its class (60_exceptions.md R174). -/
def Cause.code : Cause → BitVec 8
  | .transformBitSet => 0x01
  | .frameSizeRange => 0x01
  | .invalidBlockType => 0x02
  | .pretreeRunOvershoot => 0x03
  | .pretreeBadSameSymbol => 0x04
  | .badMatchOffset => 0x05
  | .unwrittenWindowRead => 0x06
  | .matchOverrun => 0x07
  | .windowOverrun => 0x08
  | .uncompressedOverrun => 0x09
  | .outputLengthMismatch => 0x0A
  | .buildOverrun => 0x01
  | .buildIncomplete => 0x02
  | .decodeUnfilled => 0x03
  | .decodeExhausted => 0x04
  | .tableNotBuilt => 0x05
  | .noTerminator => 0x01
  | .readPastEnd => 0x01
  | .illegalOpcode => 0x01
  | .badOperand => 0x02
  | .reservedRegister => 0x03

/-- Register 0x00 (10_state.md R36): bit 0 is FAULTED, bits 7:4 FAULT_CLASS, bits 15:8 FAULT_CAUSE. -/
def State.statusWord (s : State) : Nat :=
  s.faulted.toNat + 16 * s.faultClass.toNat + 256 * s.faultCause.toNat

/-- Register 0x19 (10_state.md R36): the VALID flags, bit 0 PRETREE, 1 MAIN, 2 LENGTH, 3 ALIGNED, 4 HOST. -/
def State.validWord (s : State) : Nat :=
  s.pretreeTable.valid.toNat + 2 * s.mainTable.valid.toNat + 4 * s.lengthTable.valid.toNat
    + 8 * s.alignedTable.valid.toNat + 16 * s.hostTable.valid.toNat

end Sys2Proof.Machine
end

