-- ==== Sys2Proof/Machine/Memory.lean ====
section
/-!
DEFINITION. Memories as lists of (address, byte) cells in one canonical form, and the two memories of the core:
STORE (10_state.md R19), whose unlisted addresses below STORE_LEN hold 0, and WINDOW (10 R27), whose unlisted
cells are unwritten.
-/

namespace Sys2Proof.Machine

/-- The byte listed at an address. -/
def Memory.get : Memory → Nat → Option Byte
  | [], _ => none
  | (k, b) :: m, a => if k = a then some b else Memory.get m a

/-- List `b` at address `a`, in its place. -/
def Memory.put : Memory → Nat → Byte → Memory
  | [], a, b => [(a, b)]
  | (k, c) :: m, a, b =>
    if a < k then (a, b) :: (k, c) :: m
    else if a = k then (a, b) :: m
    else (k, c) :: Memory.put m a b

/-- The cells of a byte sequence laid out from an address on: those that are not 0. -/
def Memory.ofBytes : Nat → List Byte → Memory
  | _, [] => []
  | a, b :: bs => if b = 0 then Memory.ofBytes (a + 1) bs else (a, b) :: Memory.ofBytes (a + 1) bs

/-- The canonical form: addresses strictly rising. -/
abbrev Memory.wf (m : Memory) : Prop :=
  List.Pairwise (fun x y : Host.Cell => x.1 < y.1) m

/-- The canonical form of STORE: rising, every address below STORE_LEN, no listed 0 (an unlisted address
reads 0). -/
abbrev State.storeWf (s : State) : Prop :=
  Memory.wf s.store ∧ ∀ c ∈ s.store, c.1 < s.storeLen.toNat ∧ c.2 ≠ 0

/-- The canonical form of WINDOW: rising, cells 0..65535. -/
abbrev State.windowWf (s : State) : Prop :=
  Memory.wf s.window ∧ ∀ c ∈ s.window, c.1 < windowSize

/-- StoreByte(a) (00_scope.md R12): the byte of STORE at an address below STORE_LEN. This is the ONE place that
says what an unlisted address of STORE reads as. -/
def State.storeByte (s : State) (a : Nat) : Byte :=
  (Memory.get s.store a).getD 0

/-- The `n` bytes of STORE from address `a` on. -/
def State.storeBytes (s : State) (a n : Nat) : List Byte :=
  (List.range n).map fun i => s.storeByte (a + i)

/-- Frame16(a) (00_scope.md R12, 20_memory.md R50): the bit frame at `a`, low byte first. -/
def State.frame16 (s : State) (a : Nat) : Nat :=
  (s.storeByte a).toNat + 256 * (s.storeByte (a + 1)).toNat

/-- WINDOW cell `i`: none is `unwritten` (10_state.md R27). -/
def State.windowByte (s : State) (i : Nat) : Option Byte :=
  Memory.get s.window i

end Sys2Proof.Machine
end

