-- ==== Sys2Proof/Machine/Ops.lean ====
section
/-!
DEFINITION. The operations every meaning is written over: procedures that read and write the state and may
raise a fault, memory and cursor accesses, fault entry (the core's one exception mechanism) with RESET as the
only way out of it, and how a command or an element becomes one outcome of a step.
-/

namespace Sys2Proof.Machine

/-- A sub-procedure of the spec (00_scope.md R15): it runs on the state and returns a value, or ends early. The
state it has reached is kept in both cases, so a fault leaves every earlier write done (R13). -/
abbrev Proc (α : Type) := EStateM Stop State α

/-- `raise Fault(C, K)` (00_scope.md R13). -/
def raise {α : Type} (c : Cause) : Proc α :=
  fun s => .error (.raise c) s

/-- The model stops. -/
def halt {α : Type} (f : Fault) : Proc α :=
  fun s => .error (.halt f) s

/-- Write registers. -/
def update (f : State → State) : Proc Unit :=
  fun s => .ok () (f s)

/-- BYTE_OFFSET as a number. -/
def State.byteOff (s : State) : Nat :=
  s.byteOffset.toNat

/-- BIT_OFFSET as a number. -/
def State.bitOff (s : State) : Nat :=
  s.bitOffset.toNat

/-- The state with both cursors set. -/
def State.withCursor (s : State) (byteOff bitOff : Nat) : State :=
  { s with byteOffset := BitVec.ofNat 32 byteOff, bitOffset := BitVec.ofNat 4 bitOff }

/-- A write of the cursors (41_buffer.md R89): a new byte offset of 2^32 or more faults before any cursor is
written. -/
def writeCursor (byteOff bitOff : Nat) : Proc Unit := fun s =>
  if byteOff < addressLimit then .ok () (s.withCursor byteOff bitOff) else .error (.raise .badOperand) s

/-- A write of BYTE_OFFSET alone (41_buffer.md R89). -/
def writeByteOffset (byteOff : Nat) : Proc Unit := fun s =>
  writeCursor byteOff s.bitOff s

/-- MemRead(a, n) (00_scope.md R12, 10_state.md R40): the bound is checked before any byte is read. -/
def memRead (a n : Nat) : Proc (List Byte) := fun s =>
  if a + n ≤ s.storeLen.toNat then .ok (s.storeBytes a n) s else .error (.raise .readPastEnd) s

/-- ReadRaw(n) (41_buffer.md R94). -/
def readRaw (n : Nat) : Proc (List Byte) := do
  let s ← get
  let bs ← memRead s.byteOff n
  writeByteOffset (s.byteOff + n)
  return bs

/-- ReadRaw(1)[0]. -/
def readByte : Proc Byte := do
  let bs ← readRaw 1
  return bs.headD 0

/-- WinRead(i) (10_state.md R41): an unwritten cell faults. -/
def winRead (i : Nat) : Proc Byte := fun s =>
  match s.windowByte i with
  | some b => .ok b s
  | none => .error (.raise .unwrittenWindowRead) s

/-- WinWrite(i, v) for i in 0..65535 (10_state.md R41). -/
def winWrite (i : Nat) (v : Byte) : Proc Unit := fun s =>
  if i < windowSize then .ok () { s with window := Memory.put s.window i v }
  else .error (.halt .windowAddress) s

/-! ## Taking a fault, and the way out of it -/

/-- Fault entry (60_exceptions.md R175, R176): class, cause, opcode and cursors are latched, STATUS becomes
FAULTED, the response is fault(C, K), and the command's temporaries end with it. Nothing else changes. -/
def faultEntry (c : Cause) (s : State) : State :=
  { s with
    faultClass := c.faultClass.code
    faultCause := c.code
    faultOpcode := s.tmp.opcode
    faultByteOffset := s.byteOffset
    faultBitOffset := s.bitOffset
    faulted := true
    tmp := {}
    response := some (.fault c) }

/-- RESET (70_reset_and_hazards.md R187), the only way out of FAULTED (60_exceptions.md R178, R181): every piece
of state takes its reset value. The instance's parameters stay (00_scope.md R8), and so do the commands the host
has sent. -/
def resetCore (s : State) : State :=
  { State.reset with params := s.params, pending := s.pending, response := some (.ok .empty) }

/-- The engine reset of LZX_RESET (70_reset_and_hazards.md R189). A table whose VALID flag is cleared holds no
code (notes/assumptions/3.md). -/
def engineReset (s : State) : State :=
  { s with
    rep0 := State.reset.rep0
    rep1 := State.reset.rep1
    rep2 := State.reset.rep2
    headerRead := State.reset.headerRead
    blockType := State.reset.blockType
    blockRemaining := State.reset.blockRemaining
    window := State.reset.window
    windowPosn := State.reset.windowPosn
    mainLen := State.reset.mainLen
    lengthLen := State.reset.lengthLen
    alignedLen := State.reset.alignedLen
    pretreeLen := State.reset.pretreeLen
    pretreeTable := State.reset.pretreeTable
    mainTable := State.reset.mainTable
    lengthTable := State.reset.lengthTable
    alignedTable := State.reset.alignedTable }

/-! ## One command, one element -/

/-- The state in which a command of an opcode begins: its temporaries are fresh (10_state.md R38). -/
def State.begin (s : State) (op : BitVec 8) : State :=
  { s with tmp := { opcode := op } }

/-- The state in which a command ends with a response: its temporaries are gone (10_state.md R38). -/
def State.answer (s : State) (r : Response) : State :=
  { s with tmp := {}, response := some r }

/-- `refused` (60_exceptions.md R179): no state of the core changes. -/
def State.refuse (s : State) : State :=
  { s with response := some .refused }

/-- A command that runs only in IDLE (60_exceptions.md R179, R180): its procedure, its response, or the fault it
raises. -/
def command (op : BitVec 8) (p : Proc Result) (s : State) : Host.Outcome State Fault Refusal :=
  if s.faulted then .next s.refuse
  else
    match p (s.begin op) with
    | .ok r s' => .next (s'.answer (.ok r))
    | .error (.raise c) s' => .next (faultEntry c s')
    | .error (.halt f) _ => .fault f

/-- A command of the observation port, which runs in FAULTED too; there an invalid operand is refused
(60_exceptions.md R179). -/
def observation (op : BitVec 8) (p : Proc Result) (s : State) : Host.Outcome State Fault Refusal :=
  if s.faulted then
    match p (s.begin op) with
    | .ok r s' => .next (s'.answer (.ok r))
    | .error (.raise _) _ => .next s.refuse
    | .error (.halt f) _ => .fault f
  else command op p s

/-- One bitstream element, a part of the current command: it answers nothing by itself, and the fault it raises is
a fault of that command (00_scope.md R15). In FAULTED no command runs, so no element does. The step never runs an
element outside a command (notes/assumptions/6.md). -/
def element (p : Proc Unit) (s : State) : Host.Outcome State Fault Refusal :=
  if s.faulted then .next s.refuse
  else
    match p s with
    | .ok _ s' => .next s'
    | .error (.raise c) s' => .next (faultEntry c s')
    | .error (.halt f) _ => .fault f

end Sys2Proof.Machine
end

