-- ==== Sys2Proof/Machine/Operands.lean ====
section
/-!
DEFINITION. How operands are formed: signed 32-bit operands (30_encoding.md R70), numbers from bytes in both
byte orders (20_memory.md R47 to R49), 7-bit integers (41_buffer.md R115), and the bit fields of the stream with
the two cursors (20 R50, R51; 41 R90 to R93).
-/

namespace Sys2Proof.Machine

/-- sext_N(v) (00_scope.md R10). -/
def sext (w v : Nat) : Int :=
  (BitVec.ofNat w v).toInt

/-- A little-endian number (20_memory.md R47). -/
def leNat : List Byte → Nat
  | [] => 0
  | b :: bs => b.toNat + 256 * leNat bs

/-- A big-endian number (20_memory.md R48); of two bytes it is the LZX 16-bit integer (R49). -/
def beNat (bs : List Byte) : Nat :=
  bs.foldl (fun r b => 256 * r + b.toNat) 0

/-- LzxInt16() (45_framer.md R167, 41_buffer.md R117). -/
def lzxInt16 : Proc Nat := do
  let bs ← readRaw 2
  return beNat bs

/-- The loop of READ_7BIT (41_buffer.md R115) over the remaining byte count, the byte's index and the bits so
far. The groups do not overlap, so their bitwise OR is their sum. -/
def varintLoop : Nat → Nat → Nat → Proc Nat
  | 0, _, _ => raise .noTerminator
  | n + 1, i, r => do
    let c ← readByte
    let r' := r + c.toNat % 128 * 2 ^ (7 * i)
    if c.toNat < 128 then return r' else varintLoop n (i + 1) r'

/-- The READ_7BIT steps: at most 5 bytes (41_buffer.md R115, VARINT_MAX_BYTES of 00_scope.md R7). -/
def readVarint : Proc Nat :=
  varintLoop 5 0 0

/-! ## Bit fields -/

/-- What a scan of the bit stream comes to: the bits and the cursors after them, or a frame that is not in STORE
with the cursors at it. -/
inductive BitScan where
  | done (value byteOff bitOff : Nat)
  | short (byteOff bitOff : Nat)
deriving DecidableEq, Repr

/-- The loop of 41_buffer.md R90 on local cursors: `left` bits are still to come after the bits `r`. The first
argument bounds the number of frames: every frame gives at least one bit. The bits of a frame are added below
those before them, so the bitwise OR of the rule is a sum. -/
def scanBits (s : State) : Nat → Nat → Nat → Nat → Nat → BitScan
  | 0, byteOff, bitOff, _, r => .done r byteOff bitOff
  | n + 1, byteOff, bitOff, left, r =>
    if left = 0 then .done r byteOff bitOff
    else if s.storeLen.toNat < byteOff + 2 then .short byteOff bitOff
    else
      let k := min left (16 - bitOff)
      let v := s.frame16 byteOff / 2 ^ (16 - bitOff - k) % 2 ^ k
      let r' := r + v * 2 ^ (left - k)
      if bitOff + k = 16 then scanBits s n (byteOff + 2) 0 (left - k) r'
      else scanBits s n byteOff (bitOff + k) (left - k) r'

/-- ReadBits(n) (41_buffer.md R90): a frame that is not in STORE faults with the cursors where the frames before it
left them. -/
def readBits (n : Nat) : Proc Nat := do
  let s ← get
  match scanBits s n s.byteOff s.bitOff n 0 with
  | .done v byteOff bitOff =>
    writeCursor byteOff bitOff
    return v
  | .short byteOff bitOff =>
    writeCursor byteOff bitOff
    raise .readPastEnd

/-- PeekBits(n) (41_buffer.md R91): the same scan, and neither cursor is written. -/
def peekBits (n : Nat) : Proc Nat := fun s =>
  match scanBits s n s.byteOff s.bitOff n 0 with
  | .done v _ _ => .ok v s
  | .short _ _ => .error (.raise .readPastEnd) s

/-- Align() (41_buffer.md R92): on to the next frame, whether or not STORE reaches so far (R121: its only fault is that at
2^32; 10_state.md R21 and notes/assumptions/21.md). -/
def alignCursor : Proc Unit := fun s =>
  if s.bitOff = 0 then .ok () s else writeCursor (s.byteOff + 2) 0 s

/-- SetBitPos(v) (41_buffer.md R93): whole 16-bit frames go to the byte cursor, which is clamped at 0. -/
def setBitPos (v : Int) : Proc Unit := fun s =>
  writeCursor ((s.byteOff : Int) + 2 * (v / 16)).toNat (v % 16).toNat s

end Sys2Proof.Machine
end

