-- ==== Sys2Proof/Machine/BitReads.lean ====
section
/-!
DEFINITION. The bit commands READ_BITS, PEEK_BITS, SET_BIT_POS and ALIGN (41_buffer.md section 4).
-/

namespace Sys2Proof.Machine

/-- READ_BITS (41_buffer.md R118): 0 to 16 bits. -/
def doReadBits (n : U32) : Proc Result := do
  if 16 < n.toNat then raise .badOperand
  else
    let v ← readBits n.toNat
    return .nat v

/-- The meaning of READ_BITS. -/
def execReadBits (n : U32) (s : State) : Host.Outcome State Fault Refusal :=
  command 0x30 (doReadBits n) s

/-- PEEK_BITS (41_buffer.md R119): 0 to 32 bits, and no cursor changes. -/
def doPeekBits (n : U32) : Proc Result := do
  if 32 < n.toNat then raise .badOperand
  else
    let v ← peekBits n.toNat
    return .nat v

/-- The meaning of PEEK_BITS. -/
def execPeekBits (n : U32) (s : State) : Host.Outcome State Fault Refusal :=
  command 0x31 (doPeekBits n) s

/-- SET_BIT_POS (41_buffer.md R120): the operand is signed. -/
def doSetBitPos (v : U32) : Proc Result := do
  setBitPos v.toInt
  return .empty

/-- The meaning of SET_BIT_POS. -/
def execSetBitPos (v : U32) (s : State) : Host.Outcome State Fault Refusal :=
  command 0x32 (doSetBitPos v) s

/-- ALIGN, the command (41_buffer.md R121). -/
def doAlign : Proc Result := do
  alignCursor
  return .empty

/-- The meaning of the command ALIGN. -/
def execAlign (s : State) : Host.Outcome State Fault Refusal :=
  command 0x33 doAlign s

end Sys2Proof.Machine
end

