-- ==== Sys2Proof/Machine/ByteReads.lean ====
section
/-!
DEFINITION. The byte reads (41_buffer.md section 3): READ_BYTES, PEEK_BYTES, the fixed-width numeric reads,
READ_7BIT, READ_STRING and READ_LZX_INT16. None looks at BIT_OFFSET or changes it (41 R94, R100).
-/

namespace Sys2Proof.Machine

/-- READ_BYTES (41_buffer.md R98). -/
def doReadBytes (n : U32) : Proc Result := do
  let bs ← readRaw n.toNat
  return .bytes bs

/-- The meaning of READ_BYTES. -/
def execReadBytes (n : U32) (s : State) : Host.Outcome State Fault Refusal :=
  command 0x03 (doReadBytes n) s

/-- PEEK_BYTES (41_buffer.md R99): no cursor changes. -/
def doPeekBytes (n : U32) : Proc Result := do
  let s ← get
  let bs ← memRead s.byteOff n.toNat
  return .bytes bs

/-- The meaning of PEEK_BYTES. -/
def execPeekBytes (n : U32) (s : State) : Host.Outcome State Fault Refusal :=
  command 0x04 (doPeekBytes n) s

/-- A fixed-width read (41_buffer.md R100): `width` bytes and then the value formula of its own rule. -/
def readNumber (width : Nat) (value : List Byte → Result) : Proc Result := do
  let bs ← readRaw width
  return value bs

/-- READ_U8 (41_buffer.md R101). -/
def doReadU8 : Proc Result :=
  readNumber 1 fun bs => .nat (leNat bs)

/-- The meaning of READ_U8. -/
def execReadU8 (s : State) : Host.Outcome State Fault Refusal :=
  command 0x10 doReadU8 s

/-- READ_I8 (41_buffer.md R102). -/
def doReadI8 : Proc Result :=
  readNumber 1 fun bs => .int (sext 8 (leNat bs))

/-- The meaning of READ_I8. -/
def execReadI8 (s : State) : Host.Outcome State Fault Refusal :=
  command 0x11 doReadI8 s

/-- READ_U16LE (41_buffer.md R103). -/
def doReadU16LE : Proc Result :=
  readNumber 2 fun bs => .nat (leNat bs)

/-- The meaning of READ_U16LE. -/
def execReadU16LE (s : State) : Host.Outcome State Fault Refusal :=
  command 0x12 doReadU16LE s

/-- READ_U16BE (41_buffer.md R104). -/
def doReadU16BE : Proc Result :=
  readNumber 2 fun bs => .nat (beNat bs)

/-- The meaning of READ_U16BE. -/
def execReadU16BE (s : State) : Host.Outcome State Fault Refusal :=
  command 0x13 doReadU16BE s

/-- READ_I16LE (41_buffer.md R105). -/
def doReadI16LE : Proc Result :=
  readNumber 2 fun bs => .int (sext 16 (leNat bs))

/-- The meaning of READ_I16LE. -/
def execReadI16LE (s : State) : Host.Outcome State Fault Refusal :=
  command 0x14 doReadI16LE s

/-- READ_I16BE (41_buffer.md R106). -/
def doReadI16BE : Proc Result :=
  readNumber 2 fun bs => .int (sext 16 (beNat bs))

/-- The meaning of READ_I16BE. -/
def execReadI16BE (s : State) : Host.Outcome State Fault Refusal :=
  command 0x15 doReadI16BE s

/-- READ_U32LE (41_buffer.md R107). -/
def doReadU32LE : Proc Result :=
  readNumber 4 fun bs => .nat (leNat bs)

/-- The meaning of READ_U32LE. -/
def execReadU32LE (s : State) : Host.Outcome State Fault Refusal :=
  command 0x16 doReadU32LE s

/-- READ_U32BE (41_buffer.md R108). -/
def doReadU32BE : Proc Result :=
  readNumber 4 fun bs => .nat (beNat bs)

/-- The meaning of READ_U32BE. -/
def execReadU32BE (s : State) : Host.Outcome State Fault Refusal :=
  command 0x17 doReadU32BE s

/-- READ_I32LE (41_buffer.md R109). -/
def doReadI32LE : Proc Result :=
  readNumber 4 fun bs => .int (sext 32 (leNat bs))

/-- The meaning of READ_I32LE. -/
def execReadI32LE (s : State) : Host.Outcome State Fault Refusal :=
  command 0x18 doReadI32LE s

/-- READ_I32BE (41_buffer.md R110). -/
def doReadI32BE : Proc Result :=
  readNumber 4 fun bs => .int (sext 32 (beNat bs))

/-- The meaning of READ_I32BE. -/
def execReadI32BE (s : State) : Host.Outcome State Fault Refusal :=
  command 0x19 doReadI32BE s

/-- READ_F32LE (41_buffer.md R111: the bit pattern, not converted). -/
def doReadF32LE : Proc Result :=
  readNumber 4 fun bs => .nat (leNat bs)

/-- The meaning of READ_F32LE. -/
def execReadF32LE (s : State) : Host.Outcome State Fault Refusal :=
  command 0x1A doReadF32LE s

/-- READ_F32BE (41_buffer.md R112: the bit pattern, not converted). -/
def doReadF32BE : Proc Result :=
  readNumber 4 fun bs => .nat (beNat bs)

/-- The meaning of READ_F32BE. -/
def execReadF32BE (s : State) : Host.Outcome State Fault Refusal :=
  command 0x1B doReadF32BE s

/-- READ_F64LE (41_buffer.md R113: the bit pattern, not converted). -/
def doReadF64LE : Proc Result :=
  readNumber 8 fun bs => .nat (leNat bs)

/-- The meaning of READ_F64LE. -/
def execReadF64LE (s : State) : Host.Outcome State Fault Refusal :=
  command 0x1C doReadF64LE s

/-- READ_F64BE (41_buffer.md R114: the bit pattern, not converted). -/
def doReadF64BE : Proc Result :=
  readNumber 8 fun bs => .nat (beNat bs)

/-- The meaning of READ_F64BE. -/
def execReadF64BE (s : State) : Host.Outcome State Fault Refusal :=
  command 0x1D doReadF64BE s

/-- READ_7BIT (41_buffer.md R115): the 35-bit value of at most 5 bytes. -/
def doRead7Bit : Proc Result := do
  let v ← readVarint
  return .nat v

/-- The meaning of READ_7BIT. -/
def execRead7Bit (s : State) : Host.Outcome State Fault Refusal :=
  command 0x20 doRead7Bit s

/-- READ_STRING (41_buffer.md R116): a 7-bit length and that many raw bytes. -/
def doReadString : Proc Result := do
  let n ← readVarint
  let bs ← readRaw n
  return .bytes bs

/-- The meaning of READ_STRING. -/
def execReadString (s : State) : Host.Outcome State Fault Refusal :=
  command 0x21 doReadString s

/-- READ_LZX_INT16 (41_buffer.md R117): the first byte is high. -/
def doReadLzxInt16 : Proc Result := do
  let v ← lzxInt16
  return .nat v

/-- The meaning of READ_LZX_INT16. -/
def execReadLzxInt16 (s : State) : Host.Outcome State Fault Refusal :=
  command 0x22 doReadLzxInt16 s

end Sys2Proof.Machine
end

