-- ==== Sys2Proof/Machine/Control.lean ====
section
/-!
DEFINITION. LOAD and RESET (70_reset_and_hazards.md R190, R187), and the illegal opcodes (30_encoding.md R69).
-/

namespace Sys2Proof.Machine

/-- LOAD (70_reset_and_hazards.md R190): the store and the cursors, nothing else. -/
def doLoad (data : List Byte) : Proc Result := do
  if addressLimit ≤ data.length then raise .badOperand
  else
    update fun s =>
      { s with
        store := Memory.ofBytes 0 data
        storeLen := BitVec.ofNat 32 data.length
        byteOffset := 0
        bitOffset := 0 }
    return .empty

/-- The meaning of LOAD. -/
def execLoad (data : List Byte) (s : State) : Host.Outcome State Fault Refusal :=
  command 0x70 (doLoad data) s

/-- The meaning of RESET (70_reset_and_hazards.md R187): accepted in every state. -/
def execReset (s : State) : Host.Outcome State Fault Refusal :=
  .next (resetCore s)

/-- An illegal opcode (30_encoding.md R69): it faults with that opcode and changes no other state. -/
def doIllegal : Proc Result :=
  raise .illegalOpcode

/-- The meaning of an illegal opcode. -/
def execIllegal (op : BitVec 8) (s : State) : Host.Outcome State Fault Refusal :=
  command op doIllegal s

end Sys2Proof.Machine
end

