-- ==== Sys2Proof/Machine/Huffman.lean ====
section
/-!
DEFINITION. The Huffman unit (42_huffman.md): the build of a decode table with its two phases and its faults, the
symbol decoder, and the four trees of the engine. A table is held as the codes the build placed, not as words:
42 R124 leaves the form free (notes/assumptions/2.md).
-/

namespace Sys2Proof.Machine

/-! ## Build -/

/-- The codes of one length `len` (42_huffman.md R126, the inner loop of either phase): every symbol of that length,
in increasing order from symbol `sym` on, takes the next `bm` of the `mask` positions. The position of a code,
counted in units of `bm`, is the code. -/
def placeSymbols (mask len bm : Nat) : List Nat → Nat → Nat → List Leaf → Except Cause (Nat × List Leaf)
  | [], _, pos, t => .ok (pos, t)
  | l :: ls, sym, pos, t =>
    if l = len then
      if mask < pos + bm then .error .buildOverrun
      else placeSymbols mask len bm ls (sym + 1) (pos + bm) (⟨sym, len, pos / bm⟩ :: t)
    else placeSymbols mask len bm ls (sym + 1) pos t

/-- The codes of `count` lengths from `len` on, each taking half the positions of the length before
(42_huffman.md R126, the outer loop of either phase). -/
def placeLengths (lens : List Nat) (mask : Nat) :
    Nat → Nat → Nat → Nat → List Leaf → Except Cause (Nat × List Leaf)
  | 0, _, _, pos, t => .ok (pos, t)
  | count + 1, len, bm, pos, t =>
    match placeSymbols mask len bm lens 0 pos t with
    | .error c => .error c
    | .ok (pos', t') => placeLengths lens mask count (len + 1) (bm / 2) pos' t'

/-- BuildTable(n, tb, L) (42_huffman.md R126) for the length array `lens` of `n` entries: phase 1 for the lengths
1..tb; if the direct table is not full, phase 2 for the lengths tb+1..16 in units of 2^-16; the all-zero array
only under EMPTY_TREE_ACCEPT. -/
def buildTable (acceptEmpty : Bool) (tb : Nat) (lens : List Nat) : Except Cause (List Leaf) :=
  match placeLengths lens (2 ^ tb) tb 1 (2 ^ (tb - 1)) 0 [] with
  | .error c => .error c
  | .ok (pos, t) =>
    if pos = 2 ^ tb then .ok t
    else
      match placeLengths lens (2 ^ tb * 2 ^ 16) (16 - tb) (tb + 1) (2 ^ 15) (pos * 2 ^ 16) t with
      | .error c => .error c
      | .ok (pos', t') =>
        if pos' = 2 ^ tb * 2 ^ 16 then .ok t'
        else if acceptEmpty && lens.all (· == 0) then .ok t'
        else .error .buildIncomplete

/-! ## Decode -/

/-- What the word of a table under `k` given bits is (42_huffman.md R124). -/
inductive Entry where
  /-- A symbol. -/
  | leaf (sym : Nat)
  /-- An internal node: codes longer than `k` begin with these bits. -/
  | node
  /-- SENTINEL. -/
  | unfilled
deriving DecidableEq, Repr

/-- The word under the `k` bits of value `p`: the symbol whose code those bits begin with, else a node if they begin
a longer code, else SENTINEL (42_huffman.md R124, R129). -/
def entryAt (t : List Leaf) (k p : Nat) : Entry :=
  match t.find? (fun l => l.len ≤ k && l.code == p / 2 ^ (k - l.len)) with
  | some l => .leaf l.sym
  | none => if t.any (fun l => k < l.len && l.code / 2 ^ (l.len - k) == p) then .node else .unfilled

/-- The walk of 42_huffman.md R132 below a node, bit by bit of the 32-bit window `w`; `k` bits are used so far, and
the first argument counts the bits of the window that are left. -/
def walkTable (t : List Leaf) (w : Nat) : Nat → Nat → Proc Nat
  | 0, _ => raise .decodeExhausted
  | n + 1, k =>
    match entryAt t (k + 1) (w / 2 ^ n) with
    | .leaf sym => return sym
    | .unfilled => raise .decodeUnfilled
    | .node => walkTable t w n (k + 1)

/-- Move the cursors past a symbol of `len` bits, which reads no byte, and return it (42_huffman.md R132, R133). -/
def passSymbol (sym len : Nat) : Proc Nat := do
  let s ← get
  setBitPos ((s.bitOff : Int) + len)
  return sym

/-- DecodeSym(T, L, n, tb) (42_huffman.md R132): peek tb bits; only at an internal node peek 32 and walk; then move the
cursors by the symbol's length. -/
def decodeSym (t : List Leaf) (lenOf : Nat → Nat) (tb : Nat) : Proc Nat := do
  let p ← peekBits tb
  match entryAt t tb p with
  | .leaf sym => passSymbol sym (lenOf sym)
  | .unfilled => raise .decodeUnfilled
  | .node =>
    let w ← peekBits 32
    let sym ← walkTable t w (32 - tb) tb
    passSymbol sym (lenOf sym)

/-! ## The engine's trees -/

/-- The table bits of each tree (42_huffman.md R137). -/
def treeBits : Tree → Nat
  | .pretree => 6
  | .main => 12
  | .length => 12
  | .aligned => 7

/-- The length array of each tree as numbers, in symbol order (42_huffman.md R137). -/
def State.treeLengths (s : State) : Tree → List Nat
  | .pretree => s.pretreeLen.toList.map fun l => (l.getD 0).toNat
  | .main => s.mainLen.toList.map (·.toNat)
  | .length => s.lengthLen.toList.map (·.toNat)
  | .aligned => s.alignedLen.toList.map fun l => (l.getD 0).toNat

/-- The decode table of each tree. -/
def State.treeTable (s : State) : Tree → Table
  | .pretree => s.pretreeTable
  | .main => s.mainTable
  | .length => s.lengthTable
  | .aligned => s.alignedTable

/-- The state with one tree's table replaced. -/
def State.setTable (s : State) (x : Tree) (t : Table) : State :=
  match x with
  | .pretree => { s with pretreeTable := t }
  | .main => { s with mainTable := t }
  | .length => { s with lengthTable := t }
  | .aligned => { s with alignedTable := t }

/-- The codes a table decodes: those the build placed if it is VALID, none otherwise (20_memory.md R64). -/
def Table.codes (t : Table) : List Leaf :=
  if t.valid then t.leaves else []

/-- Build(X) (42_huffman.md R137): VALID is cleared before the build and set after it. -/
def buildTree (x : Tree) : Proc Unit := fun s =>
  match buildTable s.params.emptyTreeAccept (treeBits x) (s.treeLengths x) with
  | .error c => .error (.raise c) (s.setTable x { valid := false, leaves := [] })
  | .ok t => .ok () (s.setTable x { valid := true, leaves := t })

/-- Decode(X) (42_huffman.md R137). -/
def decodeTree (x : Tree) : Proc Nat := do
  let s ← get
  decodeSym (s.treeTable x).codes (fun sym => (s.treeLengths x).getD sym 0) (treeBits x)

/-! ## The canonical code -/

/-- Is symbol `b` (of length `lb`) before symbol `a` (of length `la`) in the order of (length, symbol), among the
symbols that have a code (42_huffman.md R129)? -/
def codedBefore (la a lb b : Nat) : Bool :=
  1 ≤ lb && (lb < la || (lb == la && b < a))

/-- The sum of 2^(16 - L[b]) over the symbols before `a` in the order of (length, symbol). -/
def spaceBefore (la a : Nat) : List Nat → Nat → Nat
  | [], _ => 0
  | l :: ls, b => (if codedBefore la a l b then 2 ^ (16 - l) else 0) + spaceBefore la a ls (b + 1)

/-- The canonical code of a symbol of nonzero length, as a number of L[a] bits (30_encoding.md R84, 42_huffman.md
R129): the code space taken by the symbols before it, in units of its own length. -/
def canonicalCode (lens : List Nat) (a : Nat) : Nat :=
  spaceBefore (lens.getD a 0) a lens 0 / 2 ^ (16 - lens.getD a 0)

/-- The bits of a field in the stream, given each tree's lengths (30_encoding.md R84, R87). -/
def fieldBits (lens : Tree → List Nat) : Field → List Bool
  | .raw w v => bitsOf w v
  | .sym t v => bitsOf ((lens t).getD v 0) (canonicalCode (lens t) v)

end Sys2Proof.Machine
end

