-- ==== Sys2Proof/Machine/Elements.lean ====
section
/-!
DEFINITION. What each bitstream element does once its fields are read: the chunk headers (45_framer.md R166), the
session and block headers (43_lzx_blocks.md R140, R141), the tree definitions (43 R144, R147), literals and matches
(44_lzx_decode.md), the length footer and aligned symbol alone, and the elements of an Uncompressed block. The fetch
(Machine/Fetch.lean) moves the cursors over an element's bits before its meaning runs; UNCOMP.BYTES reads its bytes
itself, as its rule does.
-/

namespace Sys2Proof.Machine

/-- Write the temporaries of the current command. -/
def State.withTmp (s : State) (f : Temps → Temps) : State :=
  { s with tmp := f s.tmp }

/-! ## Chunk headers -/

/-- A chunk header of `bytes` bytes gives the chunk's sizes and is counted into FRM_CONSUMED (45_framer.md R166). -/
def chunkHeader (fs bs bytes : Nat) : Proc Unit :=
  update fun s =>
    { s with
      frmConsumed := BitVec.ofNat 33 (s.frmConsumed.toNat + bytes)
      tmp := { s.tmp with fs := fs, bs := bs } }

/-- FRM.EXPLICIT (45_framer.md R166): 5 bytes. -/
def doFrmExplicit (fs bs : BitVec 16) : Proc Unit :=
  chunkHeader fs.toNat bs.toNat 5

/-- FRM.IMPLICIT (45_framer.md R166): 2 bytes, and frame_size is 0x8000. -/
def doFrmImplicit (bs : BitVec 16) : Proc Unit :=
  chunkHeader defaultFrameSize bs.toNat 2

/-! ## Session and block headers -/

/-- TRANSFORM (43_lzx_blocks.md R140). -/
def doTransform (t : BitVec 1) : Proc Unit := do
  if t = 0 then update fun s => { s with headerRead := true }
  else raise .transformBitSet

/-- A block header sets BLOCK_TYPE and BLOCK_REMAINING before anything is done with the type (43_lzx_blocks.md
R141). -/
def blockHeader (type : BitVec 3) (size : BitVec 24) : Proc Unit :=
  update fun s => { s with blockType := type, blockRemaining := size }

/-- BLOCK.INVALID0 (43_lzx_blocks.md R141). -/
def doBlockInvalid0 (size : BitVec 24) : Proc Unit := do
  blockHeader 0 size
  raise .invalidBlockType

/-- BLOCK.VERBATIM (43_lzx_blocks.md R141). -/
def doBlockVerbatim (size : BitVec 24) : Proc Unit :=
  blockHeader 1 size

/-- BLOCK.ALIGNED (43_lzx_blocks.md R141). -/
def doBlockAligned (size : BitVec 24) : Proc Unit :=
  blockHeader 2 size

/-- BLOCK.UNCOMPRESSED (43_lzx_blocks.md R141). -/
def doBlockUncompressed (size : BitVec 24) : Proc Unit :=
  blockHeader 3 size

/-- BLOCK.INVALID4_7 (43_lzx_blocks.md R141). -/
def doBlockInvalid4to7 (t : BitVec 2) (size : BitVec 24) : Proc Unit := do
  blockHeader (BitVec.ofNat 3 (4 + t.toNat)) size
  raise .invalidBlockType

/-! ## Tree definitions -/

/-- ALIGNED_LENGTHS (43_lzx_blocks.md R144): the eight raw lengths, and the aligned tree is built. -/
def doAlignedLengths (a : Vector (BitVec 3) 8) : Proc Unit := do
  update fun s => { s with alignedLen := a.map some }
  buildTree .aligned

/-- PRETREE (43_lzx_blocks.md R147): the twenty raw lengths, and the pretree is built. -/
def doPretree (p : Vector (BitVec 4) 20) : Proc Unit := do
  update fun s => { s with pretreeLen := p.map some }
  buildTree .pretree

/-- How many entries of a length array delta decoding may write (10_state.md R29). -/
def writtenEntries : LenArray → Nat
  | .main => 512
  | .length => 249

/-- Entry `i` of a length array as a number. -/
def State.lengthAt (s : State) (x : LenArray) (i : Nat) : Nat :=
  match x with
  | .main => (s.mainLen[i]?.getD 0).toNat
  | .length => (s.lengthLen[i]?.getD 0).toNat

/-- `count` entries from index `i` on set to one value. -/
def fillVector {n w : Nat} (xs : Vector (BitVec w) n) (i v : Nat) : Nat → Vector (BitVec w) n
  | 0 => xs
  | count + 1 => fillVector (xs.setIfInBounds i (BitVec.ofNat w v)) (i + 1) v count

/-- X[i .. i+count-1] <- v. -/
def State.fillLengths (s : State) (x : LenArray) (i count v : Nat) : State :=
  match x with
  | .main => { s with mainLen := fillVector s.mainLen i v count }
  | .length => { s with lengthLen := fillVector s.lengthLen i v count }

/-- The new length of a delta (43_lzx_blocks.md R147): (old - symbol) mod 17. -/
def deltaLength (old symbol : Nat) : Nat :=
  (((old : Int) - symbol) % 17).toNat

/-- A pretree item is read only while entries of its range are left (43_lzx_blocks.md R147), and the ranges lie in
the written part of their array (R145, R148). -/
abbrev State.itemDue (s : State) : Prop :=
  s.tmp.idx < s.tmp.last ∧ s.tmp.last ≤ writtenEntries s.tmp.array

/-- X[i .. i+count-1] <- value; i <- i + count, after the check that the run stays in its range
(43_lzx_blocks.md R147). -/
def writeRun (count : Nat) (value : State → Nat) : Proc Unit := fun s =>
  if s.itemDue then
    if s.tmp.last < s.tmp.idx + count then .error (.raise .pretreeRunOvershoot) s
    else
      .ok () ((s.fillLengths s.tmp.array s.tmp.idx count (value s)).withTmp
        fun t => { t with idx := t.idx + count })
  else .error (.halt .outOfContext) s

/-- The value of a delta item: (X[i] - symbol) mod 17 for the entry i the item begins at. -/
def State.deltaValue (s : State) (symbol : Nat) : Nat :=
  deltaLength (s.lengthAt s.tmp.array s.tmp.idx) symbol

/-- PT.DELTA (43_lzx_blocks.md R147): one entry. -/
def doPtDelta (sym : BitVec 5) : Proc Unit :=
  writeRun 1 fun s => s.deltaValue sym.toNat

/-- PT.Z4 (43_lzx_blocks.md R147): z + 4 zero entries. -/
def doPtZ4 (z : BitVec 4) : Proc Unit :=
  writeRun (z.toNat + 4) fun _ => 0

/-- PT.Z20 (43_lzx_blocks.md R147): z + 20 zero entries. -/
def doPtZ20 (z : BitVec 5) : Proc Unit :=
  writeRun (z.toNat + 20) fun _ => 0

/-- The check that a run of `count` entries stays in its range (43_lzx_blocks.md R147). -/
def checkRun (count : Nat) : Proc Unit := fun s =>
  if s.tmp.last < s.tmp.idx + count then .error (.raise .pretreeRunOvershoot) s else .ok () s

/-- PT.SAME (43_lzx_blocks.md R147): one delta value for z + 4 entries; the range is checked before the second
symbol. -/
def doPtSame (z : BitVec 1) (s2 : BitVec 5) : Proc Unit := do
  checkRun (z.toNat + 4)
  if 16 < s2.toNat then raise .pretreeBadSameSymbol
  else writeRun (z.toNat + 4) fun s => s.deltaValue s2.toNat

/-! ## Literals -/

/-- LIT (44_lzx_decode.md R150, R152): one byte to the window, and one byte less in the run. -/
def doLit (c : Byte) : Proc Unit := do
  let s ← get
  if s.tmp.run = 0 then halt .outOfContext
  else
    winWrite s.windowPosn.toNat c
    update fun s =>
      { s with
        windowPosn := BitVec.ofNat 17 (s.windowPosn.toNat + 1)
        tmp := { s.tmp with run := s.tmp.run - 1 } }

/-! ## The parts of a match -/

/-- LENFOOT (44_lzx_decode.md R153): the footer of length header 7 makes the match length 7 + f + 2. -/
def doLenFoot (f : BitVec 8) : Proc Unit :=
  update fun s => s.withTmp fun t => { t with matchLen := 7 + f.toNat + 2 }

/-- ALIGNSYM (44_lzx_decode.md R159): the aligned symbol is added to the offset. -/
def doAlignSym (a : BitVec 3) : Proc Unit :=
  update fun s => s.withTmp fun t => { t with matchOff := t.matchOff + a.toNat }

/-- MatchLength(lh) (44_lzx_decode.md R153). -/
def matchLength (lh : BitVec 3) (footer : Option (BitVec 8)) : Proc Unit :=
  if lh = 7 then doLenFoot (footer.getD 0)
  else update fun s => s.withTmp fun t => { t with matchLen := lh.toNat + 2 }

/-- off <- v. -/
def setOffset (off : State → Nat) : Proc Unit :=
  update fun s => s.withTmp fun t => { t with matchOff := off s }

/-- REP2 <- REP1; REP1 <- REP0; REP0 <- off (44_lzx_decode.md R157 to R159). -/
def pushOffset : Proc Unit :=
  update fun s => { s with rep2 := s.rep1, rep1 := s.rep0, rep0 := BitVec.ofNat 32 s.tmp.matchOff }

/-- CheckOffset(off) (44_lzx_decode.md R160). -/
def checkOffset : Proc Unit := fun s =>
  if s.tmp.matchOff = 0 ∨ windowSize < s.tmp.matchOff then .error (.raise .badMatchOffset) s else .ok () s

/-- The match length may not exceed the run (44_lzx_decode.md R161). -/
def checkLength : Proc Unit := fun s =>
  if s.tmp.run < s.tmp.matchLen then .error (.raise .matchOverrun) s else .ok () s

/-- The window cell a match of offset `off` copies to cell `i` (44_lzx_decode.md R162): (i - off) mod 65536. -/
def copySource (i off : Nat) : Nat :=
  (((i : Int) - off) % windowSize).toNat

/-- The loop of Copy(off, L) (44_lzx_decode.md R162): the given number of bytes, the next one to cell `i`, each read
after the ones before it are written. -/
def copyLoop (off : Nat) : Nat → Nat → Proc Unit
  | 0, _ => return ()
  | n + 1, i => do
    let b ← winRead (copySource i off)
    winWrite i b
    copyLoop off n (i + 1)

/-- Copy(off, L); run <- run - L (44_lzx_decode.md R150, R162). -/
def copyMatch : Proc Unit := do
  let s ← get
  copyLoop s.tmp.matchOff s.tmp.matchLen s.windowPosn.toNat
  update fun t =>
    { t with
      windowPosn := BitVec.ofNat 17 (s.windowPosn.toNat + s.tmp.matchLen)
      tmp := { t.tmp with run := t.tmp.run - s.tmp.matchLen } }

/-- The end of every match, in the fixed order of 44_lzx_decode.md R150: the offset check, the length check, the
copy. -/
def finishMatch : Proc Unit := do
  checkOffset
  checkLength
  copyMatch

/-- A match of slot 4 to 31 with raw extra bits only: `x` is their value (44_lzx_decode.md R158, R159). -/
def rawMatch (slot : Nat) (lh : BitVec 3) (footer : Option (BitVec 8)) (x : Nat) : Proc Unit := do
  matchLength lh footer
  setOffset fun _ => positionBase slot - 2 + x
  pushOffset
  finishMatch

/-- A match of slot 8 to 31 in an Aligned block: `x` is what the raw bits give, `a` the aligned symbol
(44_lzx_decode.md R159). -/
def alignedTreeMatch (slot : Nat) (lh : BitVec 3) (footer : Option (BitVec 8)) (x : Nat) (a : BitVec 3) :
    Proc Unit := do
  matchLength lh footer
  setOffset fun _ => positionBase slot - 2 + x
  doAlignSym a
  pushOffset
  finishMatch

/-! ## Matches of the repeated offsets and of slot 3 -/

/-- MATCH.S0 (44_lzx_decode.md R154): REP0, and the cache does not change. -/
def doMatchS0 (lh : BitVec 3) (footer : Option (BitVec 8)) : Proc Unit := do
  matchLength lh footer
  setOffset fun s => s.rep0.toNat
  finishMatch

/-- MATCH.S1 (44_lzx_decode.md R155): REP1, swapped with REP0. -/
def doMatchS1 (lh : BitVec 3) (footer : Option (BitVec 8)) : Proc Unit := do
  matchLength lh footer
  setOffset fun s => s.rep1.toNat
  update fun s => { s with rep1 := s.rep0, rep0 := s.rep1 }
  finishMatch

/-- MATCH.S2 (44_lzx_decode.md R156): REP2, swapped with REP0; REP1 stays. -/
def doMatchS2 (lh : BitVec 3) (footer : Option (BitVec 8)) : Proc Unit := do
  matchLength lh footer
  setOffset fun s => s.rep2.toNat
  update fun s => { s with rep2 := s.rep0, rep0 := s.rep2 }
  finishMatch

/-- MATCH.S3 (44_lzx_decode.md R157): no extra bits, offset POSITION_BASE[3] - 2. -/
def doMatchS3 (lh : BitVec 3) (footer : Option (BitVec 8)) : Proc Unit :=
  rawMatch 3 lh footer 0

/-! ## Matches of slots 4 to 31 in a Verbatim block (44_lzx_decode.md R158) -/

/-- MATCH.V.S4. -/
def doMatchVS4 (lh : BitVec 3) (footer : Option (BitVec 8)) (v : BitVec 1) : Proc Unit :=
  rawMatch 4 lh footer v.toNat

/-- MATCH.V.S5. -/
def doMatchVS5 (lh : BitVec 3) (footer : Option (BitVec 8)) (v : BitVec 1) : Proc Unit :=
  rawMatch 5 lh footer v.toNat

/-- MATCH.V.S6. -/
def doMatchVS6 (lh : BitVec 3) (footer : Option (BitVec 8)) (v : BitVec 2) : Proc Unit :=
  rawMatch 6 lh footer v.toNat

/-- MATCH.V.S7. -/
def doMatchVS7 (lh : BitVec 3) (footer : Option (BitVec 8)) (v : BitVec 2) : Proc Unit :=
  rawMatch 7 lh footer v.toNat

/-- MATCH.V.S8. -/
def doMatchVS8 (lh : BitVec 3) (footer : Option (BitVec 8)) (v : BitVec 3) : Proc Unit :=
  rawMatch 8 lh footer v.toNat

/-- MATCH.V.S9. -/
def doMatchVS9 (lh : BitVec 3) (footer : Option (BitVec 8)) (v : BitVec 3) : Proc Unit :=
  rawMatch 9 lh footer v.toNat

/-- MATCH.V.S10. -/
def doMatchVS10 (lh : BitVec 3) (footer : Option (BitVec 8)) (v : BitVec 4) : Proc Unit :=
  rawMatch 10 lh footer v.toNat

/-- MATCH.V.S11. -/
def doMatchVS11 (lh : BitVec 3) (footer : Option (BitVec 8)) (v : BitVec 4) : Proc Unit :=
  rawMatch 11 lh footer v.toNat

/-- MATCH.V.S12. -/
def doMatchVS12 (lh : BitVec 3) (footer : Option (BitVec 8)) (v : BitVec 5) : Proc Unit :=
  rawMatch 12 lh footer v.toNat

/-- MATCH.V.S13. -/
def doMatchVS13 (lh : BitVec 3) (footer : Option (BitVec 8)) (v : BitVec 5) : Proc Unit :=
  rawMatch 13 lh footer v.toNat

/-- MATCH.V.S14. -/
def doMatchVS14 (lh : BitVec 3) (footer : Option (BitVec 8)) (v : BitVec 6) : Proc Unit :=
  rawMatch 14 lh footer v.toNat

/-- MATCH.V.S15. -/
def doMatchVS15 (lh : BitVec 3) (footer : Option (BitVec 8)) (v : BitVec 6) : Proc Unit :=
  rawMatch 15 lh footer v.toNat

/-- MATCH.V.S16. -/
def doMatchVS16 (lh : BitVec 3) (footer : Option (BitVec 8)) (v : BitVec 7) : Proc Unit :=
  rawMatch 16 lh footer v.toNat

/-- MATCH.V.S17. -/
def doMatchVS17 (lh : BitVec 3) (footer : Option (BitVec 8)) (v : BitVec 7) : Proc Unit :=
  rawMatch 17 lh footer v.toNat

/-- MATCH.V.S18. -/
def doMatchVS18 (lh : BitVec 3) (footer : Option (BitVec 8)) (v : BitVec 8) : Proc Unit :=
  rawMatch 18 lh footer v.toNat

/-- MATCH.V.S19. -/
def doMatchVS19 (lh : BitVec 3) (footer : Option (BitVec 8)) (v : BitVec 8) : Proc Unit :=
  rawMatch 19 lh footer v.toNat

/-- MATCH.V.S20. -/
def doMatchVS20 (lh : BitVec 3) (footer : Option (BitVec 8)) (v : BitVec 9) : Proc Unit :=
  rawMatch 20 lh footer v.toNat

/-- MATCH.V.S21. -/
def doMatchVS21 (lh : BitVec 3) (footer : Option (BitVec 8)) (v : BitVec 9) : Proc Unit :=
  rawMatch 21 lh footer v.toNat

/-- MATCH.V.S22. -/
def doMatchVS22 (lh : BitVec 3) (footer : Option (BitVec 8)) (v : BitVec 10) : Proc Unit :=
  rawMatch 22 lh footer v.toNat

/-- MATCH.V.S23. -/
def doMatchVS23 (lh : BitVec 3) (footer : Option (BitVec 8)) (v : BitVec 10) : Proc Unit :=
  rawMatch 23 lh footer v.toNat

/-- MATCH.V.S24. -/
def doMatchVS24 (lh : BitVec 3) (footer : Option (BitVec 8)) (v : BitVec 11) : Proc Unit :=
  rawMatch 24 lh footer v.toNat

/-- MATCH.V.S25. -/
def doMatchVS25 (lh : BitVec 3) (footer : Option (BitVec 8)) (v : BitVec 11) : Proc Unit :=
  rawMatch 25 lh footer v.toNat

/-- MATCH.V.S26. -/
def doMatchVS26 (lh : BitVec 3) (footer : Option (BitVec 8)) (v : BitVec 12) : Proc Unit :=
  rawMatch 26 lh footer v.toNat

/-- MATCH.V.S27. -/
def doMatchVS27 (lh : BitVec 3) (footer : Option (BitVec 8)) (v : BitVec 12) : Proc Unit :=
  rawMatch 27 lh footer v.toNat

/-- MATCH.V.S28. -/
def doMatchVS28 (lh : BitVec 3) (footer : Option (BitVec 8)) (v : BitVec 13) : Proc Unit :=
  rawMatch 28 lh footer v.toNat

/-- MATCH.V.S29. -/
def doMatchVS29 (lh : BitVec 3) (footer : Option (BitVec 8)) (v : BitVec 13) : Proc Unit :=
  rawMatch 29 lh footer v.toNat

/-- MATCH.V.S30. -/
def doMatchVS30 (lh : BitVec 3) (footer : Option (BitVec 8)) (v : BitVec 14) : Proc Unit :=
  rawMatch 30 lh footer v.toNat

/-- MATCH.V.S31. -/
def doMatchVS31 (lh : BitVec 3) (footer : Option (BitVec 8)) (v : BitVec 14) : Proc Unit :=
  rawMatch 31 lh footer v.toNat

/-! ## Matches of slots 4 to 31 in an Aligned block (44_lzx_decode.md R159) -/

/-- MATCH.A.S4. -/
def doMatchAS4 (lh : BitVec 3) (footer : Option (BitVec 8)) (v : BitVec 1) : Proc Unit :=
  rawMatch 4 lh footer v.toNat

/-- MATCH.A.S5. -/
def doMatchAS5 (lh : BitVec 3) (footer : Option (BitVec 8)) (v : BitVec 1) : Proc Unit :=
  rawMatch 5 lh footer v.toNat

/-- MATCH.A.S6. -/
def doMatchAS6 (lh : BitVec 3) (footer : Option (BitVec 8)) (v : BitVec 2) : Proc Unit :=
  rawMatch 6 lh footer v.toNat

/-- MATCH.A.S7. -/
def doMatchAS7 (lh : BitVec 3) (footer : Option (BitVec 8)) (v : BitVec 2) : Proc Unit :=
  rawMatch 7 lh footer v.toNat

/-- MATCH.A.S8: without verbatim bits in standard mode, with three of them in source_literal mode. -/
def doMatchAS8 (lh : BitVec 3) (footer : Option (BitVec 8)) (v : Option (BitVec 3)) (a : BitVec 3) : Proc Unit :=
  alignedTreeMatch 8 lh footer ((v.map (·.toNat)).getD 0) a

/-- MATCH.A.S9: without verbatim bits in standard mode, with three of them in source_literal mode. -/
def doMatchAS9 (lh : BitVec 3) (footer : Option (BitVec 8)) (v : Option (BitVec 3)) (a : BitVec 3) : Proc Unit :=
  alignedTreeMatch 9 lh footer ((v.map (·.toNat)).getD 0) a

/-- MATCH.A.S10. -/
def doMatchAS10 (lh : BitVec 3) (footer : Option (BitVec 8)) (h : BitVec 1) (a : BitVec 3) : Proc Unit :=
  alignedTreeMatch 10 lh footer (8 * h.toNat) a

/-- MATCH.A.S11. -/
def doMatchAS11 (lh : BitVec 3) (footer : Option (BitVec 8)) (h : BitVec 1) (a : BitVec 3) : Proc Unit :=
  alignedTreeMatch 11 lh footer (8 * h.toNat) a

/-- MATCH.A.S12. -/
def doMatchAS12 (lh : BitVec 3) (footer : Option (BitVec 8)) (h : BitVec 2) (a : BitVec 3) : Proc Unit :=
  alignedTreeMatch 12 lh footer (8 * h.toNat) a

/-- MATCH.A.S13. -/
def doMatchAS13 (lh : BitVec 3) (footer : Option (BitVec 8)) (h : BitVec 2) (a : BitVec 3) : Proc Unit :=
  alignedTreeMatch 13 lh footer (8 * h.toNat) a

/-- MATCH.A.S14. -/
def doMatchAS14 (lh : BitVec 3) (footer : Option (BitVec 8)) (h : BitVec 3) (a : BitVec 3) : Proc Unit :=
  alignedTreeMatch 14 lh footer (8 * h.toNat) a

/-- MATCH.A.S15. -/
def doMatchAS15 (lh : BitVec 3) (footer : Option (BitVec 8)) (h : BitVec 3) (a : BitVec 3) : Proc Unit :=
  alignedTreeMatch 15 lh footer (8 * h.toNat) a

/-- MATCH.A.S16. -/
def doMatchAS16 (lh : BitVec 3) (footer : Option (BitVec 8)) (h : BitVec 4) (a : BitVec 3) : Proc Unit :=
  alignedTreeMatch 16 lh footer (8 * h.toNat) a

/-- MATCH.A.S17. -/
def doMatchAS17 (lh : BitVec 3) (footer : Option (BitVec 8)) (h : BitVec 4) (a : BitVec 3) : Proc Unit :=
  alignedTreeMatch 17 lh footer (8 * h.toNat) a

/-- MATCH.A.S18. -/
def doMatchAS18 (lh : BitVec 3) (footer : Option (BitVec 8)) (h : BitVec 5) (a : BitVec 3) : Proc Unit :=
  alignedTreeMatch 18 lh footer (8 * h.toNat) a

/-- MATCH.A.S19. -/
def doMatchAS19 (lh : BitVec 3) (footer : Option (BitVec 8)) (h : BitVec 5) (a : BitVec 3) : Proc Unit :=
  alignedTreeMatch 19 lh footer (8 * h.toNat) a

/-- MATCH.A.S20. -/
def doMatchAS20 (lh : BitVec 3) (footer : Option (BitVec 8)) (h : BitVec 6) (a : BitVec 3) : Proc Unit :=
  alignedTreeMatch 20 lh footer (8 * h.toNat) a

/-- MATCH.A.S21. -/
def doMatchAS21 (lh : BitVec 3) (footer : Option (BitVec 8)) (h : BitVec 6) (a : BitVec 3) : Proc Unit :=
  alignedTreeMatch 21 lh footer (8 * h.toNat) a

/-- MATCH.A.S22. -/
def doMatchAS22 (lh : BitVec 3) (footer : Option (BitVec 8)) (h : BitVec 7) (a : BitVec 3) : Proc Unit :=
  alignedTreeMatch 22 lh footer (8 * h.toNat) a

/-- MATCH.A.S23. -/
def doMatchAS23 (lh : BitVec 3) (footer : Option (BitVec 8)) (h : BitVec 7) (a : BitVec 3) : Proc Unit :=
  alignedTreeMatch 23 lh footer (8 * h.toNat) a

/-- MATCH.A.S24. -/
def doMatchAS24 (lh : BitVec 3) (footer : Option (BitVec 8)) (h : BitVec 8) (a : BitVec 3) : Proc Unit :=
  alignedTreeMatch 24 lh footer (8 * h.toNat) a

/-- MATCH.A.S25. -/
def doMatchAS25 (lh : BitVec 3) (footer : Option (BitVec 8)) (h : BitVec 8) (a : BitVec 3) : Proc Unit :=
  alignedTreeMatch 25 lh footer (8 * h.toNat) a

/-- MATCH.A.S26. -/
def doMatchAS26 (lh : BitVec 3) (footer : Option (BitVec 8)) (h : BitVec 9) (a : BitVec 3) : Proc Unit :=
  alignedTreeMatch 26 lh footer (8 * h.toNat) a

/-- MATCH.A.S27. -/
def doMatchAS27 (lh : BitVec 3) (footer : Option (BitVec 8)) (h : BitVec 9) (a : BitVec 3) : Proc Unit :=
  alignedTreeMatch 27 lh footer (8 * h.toNat) a

/-- MATCH.A.S28. -/
def doMatchAS28 (lh : BitVec 3) (footer : Option (BitVec 8)) (h : BitVec 10) (a : BitVec 3) : Proc Unit :=
  alignedTreeMatch 28 lh footer (8 * h.toNat) a

/-- MATCH.A.S29. -/
def doMatchAS29 (lh : BitVec 3) (footer : Option (BitVec 8)) (h : BitVec 10) (a : BitVec 3) : Proc Unit :=
  alignedTreeMatch 29 lh footer (8 * h.toNat) a

/-- MATCH.A.S30. -/
def doMatchAS30 (lh : BitVec 3) (footer : Option (BitVec 8)) (h : BitVec 11) (a : BitVec 3) : Proc Unit :=
  alignedTreeMatch 30 lh footer (8 * h.toNat) a

/-- MATCH.A.S31. -/
def doMatchAS31 (lh : BitVec 3) (footer : Option (BitVec 8)) (h : BitVec 11) (a : BitVec 3) : Proc Unit :=
  alignedTreeMatch 31 lh footer (8 * h.toNat) a

/-! ## The elements of an Uncompressed block -/

/-- ALIGN, the stream element (30_encoding.md R83, 41_buffer.md R92). -/
def doStreamAlign : Proc Unit :=
  alignCursor

/-- UNCOMP.REPS (43_lzx_blocks.md R146): the three values are not checked. -/
def doUncompReps (r0 r1 r2 : U32) : Proc Unit :=
  update fun s => { s with rep0 := r0, rep1 := r1, rep2 := r2 }

/-- Write bytes to consecutive window cells from cell `i` on. -/
def writeWindow : Nat → List Byte → Proc Unit
  | _, [] => return ()
  | i, b :: bs => do
    winWrite i b
    writeWindow (i + 1) bs

/-- UNCOMP.BYTES, UncompressedRun(run) (44_lzx_decode.md R163): the bound of the chunk, the bytes, the window. -/
def doUncompBytes : Proc Unit := do
  let s ← get
  if s.tmp.chunkStart + s.tmp.bs < s.byteOff + s.tmp.run then raise .uncompressedOverrun
  else
    let bs ← readRaw s.tmp.run
    writeWindow s.windowPosn.toNat bs
    update fun t =>
      { t with
        windowPosn := BitVec.ofNat 17 (s.windowPosn.toNat + s.tmp.run)
        tmp := { t.tmp with run := 0 } }

end Sys2Proof.Machine
end

