-- ==== Sys2Proof/Machine/ElementExec.lean ====
section
/-!
DEFINITION. The meanings of the bitstream elements, one for each, and `runElement`, by which the engine's loops run
the element they have fetched.
-/

namespace Sys2Proof.Machine

/-- Run a fetched element inside a command (00_scope.md R15). The fetch yields elements only. -/
def runElement : Instr → Proc Unit
  | .seekAbs _ => halt .undecodable
  | .seekRel _ => halt .undecodable
  | .readBytes _ => halt .undecodable
  | .peekBytes _ => halt .undecodable
  | .getPos => halt .undecodable
  | .regRead _ => halt .undecodable
  | .arrayRead _ _ => halt .undecodable
  | .readU8 => halt .undecodable
  | .readI8 => halt .undecodable
  | .readU16LE => halt .undecodable
  | .readU16BE => halt .undecodable
  | .readI16LE => halt .undecodable
  | .readI16BE => halt .undecodable
  | .readU32LE => halt .undecodable
  | .readU32BE => halt .undecodable
  | .readI32LE => halt .undecodable
  | .readI32BE => halt .undecodable
  | .readF32LE => halt .undecodable
  | .readF32BE => halt .undecodable
  | .readF64LE => halt .undecodable
  | .readF64BE => halt .undecodable
  | .read7Bit => halt .undecodable
  | .readString => halt .undecodable
  | .readLzxInt16 => halt .undecodable
  | .readBits _ => halt .undecodable
  | .peekBits _ => halt .undecodable
  | .setBitPos _ => halt .undecodable
  | .align => halt .undecodable
  | .hufBuild _ _ _ => halt .undecodable
  | .hufDecode => halt .undecodable
  | .lzxReset => halt .undecodable
  | .lzxDecompress _ _ => halt .undecodable
  | .frmRun _ _ => halt .undecodable
  | .load _ => halt .undecodable
  | .reset => halt .undecodable
  | .illegal _ => halt .undecodable
  | .frmExplicit fs bs => doFrmExplicit fs bs
  | .frmImplicit bs => doFrmImplicit bs
  | .transform t => doTransform t
  | .blockInvalid0 size => doBlockInvalid0 size
  | .blockVerbatim size => doBlockVerbatim size
  | .blockAligned size => doBlockAligned size
  | .blockUncompressed size => doBlockUncompressed size
  | .blockInvalid4to7 t size => doBlockInvalid4to7 t size
  | .alignedLengths a => doAlignedLengths a
  | .pretree p => doPretree p
  | .ptDelta s => doPtDelta s
  | .ptZ4 z => doPtZ4 z
  | .ptZ20 z => doPtZ20 z
  | .ptSame z s2 => doPtSame z s2
  | .lit c => doLit c
  | .matchS0 lh footer => doMatchS0 lh footer
  | .matchS1 lh footer => doMatchS1 lh footer
  | .matchS2 lh footer => doMatchS2 lh footer
  | .matchS3 lh footer => doMatchS3 lh footer
  | .matchVS4 lh footer v => doMatchVS4 lh footer v
  | .matchVS5 lh footer v => doMatchVS5 lh footer v
  | .matchVS6 lh footer v => doMatchVS6 lh footer v
  | .matchVS7 lh footer v => doMatchVS7 lh footer v
  | .matchVS8 lh footer v => doMatchVS8 lh footer v
  | .matchVS9 lh footer v => doMatchVS9 lh footer v
  | .matchVS10 lh footer v => doMatchVS10 lh footer v
  | .matchVS11 lh footer v => doMatchVS11 lh footer v
  | .matchVS12 lh footer v => doMatchVS12 lh footer v
  | .matchVS13 lh footer v => doMatchVS13 lh footer v
  | .matchVS14 lh footer v => doMatchVS14 lh footer v
  | .matchVS15 lh footer v => doMatchVS15 lh footer v
  | .matchVS16 lh footer v => doMatchVS16 lh footer v
  | .matchVS17 lh footer v => doMatchVS17 lh footer v
  | .matchVS18 lh footer v => doMatchVS18 lh footer v
  | .matchVS19 lh footer v => doMatchVS19 lh footer v
  | .matchVS20 lh footer v => doMatchVS20 lh footer v
  | .matchVS21 lh footer v => doMatchVS21 lh footer v
  | .matchVS22 lh footer v => doMatchVS22 lh footer v
  | .matchVS23 lh footer v => doMatchVS23 lh footer v
  | .matchVS24 lh footer v => doMatchVS24 lh footer v
  | .matchVS25 lh footer v => doMatchVS25 lh footer v
  | .matchVS26 lh footer v => doMatchVS26 lh footer v
  | .matchVS27 lh footer v => doMatchVS27 lh footer v
  | .matchVS28 lh footer v => doMatchVS28 lh footer v
  | .matchVS29 lh footer v => doMatchVS29 lh footer v
  | .matchVS30 lh footer v => doMatchVS30 lh footer v
  | .matchVS31 lh footer v => doMatchVS31 lh footer v
  | .matchAS4 lh footer v => doMatchAS4 lh footer v
  | .matchAS5 lh footer v => doMatchAS5 lh footer v
  | .matchAS6 lh footer v => doMatchAS6 lh footer v
  | .matchAS7 lh footer v => doMatchAS7 lh footer v
  | .matchAS8 lh footer v a => doMatchAS8 lh footer v a
  | .matchAS9 lh footer v a => doMatchAS9 lh footer v a
  | .matchAS10 lh footer h a => doMatchAS10 lh footer h a
  | .matchAS11 lh footer h a => doMatchAS11 lh footer h a
  | .matchAS12 lh footer h a => doMatchAS12 lh footer h a
  | .matchAS13 lh footer h a => doMatchAS13 lh footer h a
  | .matchAS14 lh footer h a => doMatchAS14 lh footer h a
  | .matchAS15 lh footer h a => doMatchAS15 lh footer h a
  | .matchAS16 lh footer h a => doMatchAS16 lh footer h a
  | .matchAS17 lh footer h a => doMatchAS17 lh footer h a
  | .matchAS18 lh footer h a => doMatchAS18 lh footer h a
  | .matchAS19 lh footer h a => doMatchAS19 lh footer h a
  | .matchAS20 lh footer h a => doMatchAS20 lh footer h a
  | .matchAS21 lh footer h a => doMatchAS21 lh footer h a
  | .matchAS22 lh footer h a => doMatchAS22 lh footer h a
  | .matchAS23 lh footer h a => doMatchAS23 lh footer h a
  | .matchAS24 lh footer h a => doMatchAS24 lh footer h a
  | .matchAS25 lh footer h a => doMatchAS25 lh footer h a
  | .matchAS26 lh footer h a => doMatchAS26 lh footer h a
  | .matchAS27 lh footer h a => doMatchAS27 lh footer h a
  | .matchAS28 lh footer h a => doMatchAS28 lh footer h a
  | .matchAS29 lh footer h a => doMatchAS29 lh footer h a
  | .matchAS30 lh footer h a => doMatchAS30 lh footer h a
  | .matchAS31 lh footer h a => doMatchAS31 lh footer h a
  | .lenFoot f => doLenFoot f
  | .alignSym a => doAlignSym a
  | .streamAlign => doStreamAlign
  | .uncompReps r0 r1 r2 => doUncompReps r0 r1 r2
  | .uncompBytes => doUncompBytes

/-- The meaning of FRM.EXPLICIT. -/
def execFrmExplicit (fs : BitVec 16) (bs : BitVec 16) (s : State) :
    Host.Outcome State Fault Refusal :=
  element (doFrmExplicit fs bs) s

/-- The meaning of FRM.IMPLICIT. -/
def execFrmImplicit (bs : BitVec 16) (s : State) :
    Host.Outcome State Fault Refusal :=
  element (doFrmImplicit bs) s

/-- The meaning of TRANSFORM. -/
def execTransform (t : BitVec 1) (s : State) :
    Host.Outcome State Fault Refusal :=
  element (doTransform t) s

/-- The meaning of BLOCK.INVALID0. -/
def execBlockInvalid0 (size : BitVec 24) (s : State) :
    Host.Outcome State Fault Refusal :=
  element (doBlockInvalid0 size) s

/-- The meaning of BLOCK.VERBATIM. -/
def execBlockVerbatim (size : BitVec 24) (s : State) :
    Host.Outcome State Fault Refusal :=
  element (doBlockVerbatim size) s

/-- The meaning of BLOCK.ALIGNED. -/
def execBlockAligned (size : BitVec 24) (s : State) :
    Host.Outcome State Fault Refusal :=
  element (doBlockAligned size) s

/-- The meaning of BLOCK.UNCOMPRESSED. -/
def execBlockUncompressed (size : BitVec 24) (s : State) :
    Host.Outcome State Fault Refusal :=
  element (doBlockUncompressed size) s

/-- The meaning of BLOCK.INVALID4_7. -/
def execBlockInvalid4to7 (t : BitVec 2) (size : BitVec 24) (s : State) :
    Host.Outcome State Fault Refusal :=
  element (doBlockInvalid4to7 t size) s

/-- The meaning of ALIGNED_LENGTHS. -/
def execAlignedLengths (a : Vector (BitVec 3) 8) (s : State) :
    Host.Outcome State Fault Refusal :=
  element (doAlignedLengths a) s

/-- The meaning of PRETREE. -/
def execPretree (p : Vector (BitVec 4) 20) (s : State) :
    Host.Outcome State Fault Refusal :=
  element (doPretree p) s

/-- The meaning of PT.DELTA. -/
def execPtDelta (s : BitVec 5) (s' : State) :
    Host.Outcome State Fault Refusal :=
  element (doPtDelta s) s'

/-- The meaning of PT.Z4. -/
def execPtZ4 (z : BitVec 4) (s : State) :
    Host.Outcome State Fault Refusal :=
  element (doPtZ4 z) s

/-- The meaning of PT.Z20. -/
def execPtZ20 (z : BitVec 5) (s : State) :
    Host.Outcome State Fault Refusal :=
  element (doPtZ20 z) s

/-- The meaning of PT.SAME. -/
def execPtSame (z : BitVec 1) (s2 : BitVec 5) (s : State) :
    Host.Outcome State Fault Refusal :=
  element (doPtSame z s2) s

/-- The meaning of LIT. -/
def execLit (c : Byte) (s : State) :
    Host.Outcome State Fault Refusal :=
  element (doLit c) s

/-- The meaning of MATCH.S0. -/
def execMatchS0 (lh : BitVec 3) (footer : Option (BitVec 8)) (s : State) :
    Host.Outcome State Fault Refusal :=
  element (doMatchS0 lh footer) s

/-- The meaning of MATCH.S1. -/
def execMatchS1 (lh : BitVec 3) (footer : Option (BitVec 8)) (s : State) :
    Host.Outcome State Fault Refusal :=
  element (doMatchS1 lh footer) s

/-- The meaning of MATCH.S2. -/
def execMatchS2 (lh : BitVec 3) (footer : Option (BitVec 8)) (s : State) :
    Host.Outcome State Fault Refusal :=
  element (doMatchS2 lh footer) s

/-- The meaning of MATCH.S3. -/
def execMatchS3 (lh : BitVec 3) (footer : Option (BitVec 8)) (s : State) :
    Host.Outcome State Fault Refusal :=
  element (doMatchS3 lh footer) s

/-- The meaning of MATCH.V.S4. -/
def execMatchVS4 (lh : BitVec 3) (footer : Option (BitVec 8)) (v : BitVec 1) (s : State) :
    Host.Outcome State Fault Refusal :=
  element (doMatchVS4 lh footer v) s

/-- The meaning of MATCH.V.S5. -/
def execMatchVS5 (lh : BitVec 3) (footer : Option (BitVec 8)) (v : BitVec 1) (s : State) :
    Host.Outcome State Fault Refusal :=
  element (doMatchVS5 lh footer v) s

/-- The meaning of MATCH.V.S6. -/
def execMatchVS6 (lh : BitVec 3) (footer : Option (BitVec 8)) (v : BitVec 2) (s : State) :
    Host.Outcome State Fault Refusal :=
  element (doMatchVS6 lh footer v) s

/-- The meaning of MATCH.V.S7. -/
def execMatchVS7 (lh : BitVec 3) (footer : Option (BitVec 8)) (v : BitVec 2) (s : State) :
    Host.Outcome State Fault Refusal :=
  element (doMatchVS7 lh footer v) s

/-- The meaning of MATCH.V.S8. -/
def execMatchVS8 (lh : BitVec 3) (footer : Option (BitVec 8)) (v : BitVec 3) (s : State) :
    Host.Outcome State Fault Refusal :=
  element (doMatchVS8 lh footer v) s

/-- The meaning of MATCH.V.S9. -/
def execMatchVS9 (lh : BitVec 3) (footer : Option (BitVec 8)) (v : BitVec 3) (s : State) :
    Host.Outcome State Fault Refusal :=
  element (doMatchVS9 lh footer v) s

/-- The meaning of MATCH.V.S10. -/
def execMatchVS10 (lh : BitVec 3) (footer : Option (BitVec 8)) (v : BitVec 4) (s : State) :
    Host.Outcome State Fault Refusal :=
  element (doMatchVS10 lh footer v) s

/-- The meaning of MATCH.V.S11. -/
def execMatchVS11 (lh : BitVec 3) (footer : Option (BitVec 8)) (v : BitVec 4) (s : State) :
    Host.Outcome State Fault Refusal :=
  element (doMatchVS11 lh footer v) s

/-- The meaning of MATCH.V.S12. -/
def execMatchVS12 (lh : BitVec 3) (footer : Option (BitVec 8)) (v : BitVec 5) (s : State) :
    Host.Outcome State Fault Refusal :=
  element (doMatchVS12 lh footer v) s

/-- The meaning of MATCH.V.S13. -/
def execMatchVS13 (lh : BitVec 3) (footer : Option (BitVec 8)) (v : BitVec 5) (s : State) :
    Host.Outcome State Fault Refusal :=
  element (doMatchVS13 lh footer v) s

/-- The meaning of MATCH.V.S14. -/
def execMatchVS14 (lh : BitVec 3) (footer : Option (BitVec 8)) (v : BitVec 6) (s : State) :
    Host.Outcome State Fault Refusal :=
  element (doMatchVS14 lh footer v) s

/-- The meaning of MATCH.V.S15. -/
def execMatchVS15 (lh : BitVec 3) (footer : Option (BitVec 8)) (v : BitVec 6) (s : State) :
    Host.Outcome State Fault Refusal :=
  element (doMatchVS15 lh footer v) s

/-- The meaning of MATCH.V.S16. -/
def execMatchVS16 (lh : BitVec 3) (footer : Option (BitVec 8)) (v : BitVec 7) (s : State) :
    Host.Outcome State Fault Refusal :=
  element (doMatchVS16 lh footer v) s

/-- The meaning of MATCH.V.S17. -/
def execMatchVS17 (lh : BitVec 3) (footer : Option (BitVec 8)) (v : BitVec 7) (s : State) :
    Host.Outcome State Fault Refusal :=
  element (doMatchVS17 lh footer v) s

/-- The meaning of MATCH.V.S18. -/
def execMatchVS18 (lh : BitVec 3) (footer : Option (BitVec 8)) (v : BitVec 8) (s : State) :
    Host.Outcome State Fault Refusal :=
  element (doMatchVS18 lh footer v) s

/-- The meaning of MATCH.V.S19. -/
def execMatchVS19 (lh : BitVec 3) (footer : Option (BitVec 8)) (v : BitVec 8) (s : State) :
    Host.Outcome State Fault Refusal :=
  element (doMatchVS19 lh footer v) s

/-- The meaning of MATCH.V.S20. -/
def execMatchVS20 (lh : BitVec 3) (footer : Option (BitVec 8)) (v : BitVec 9) (s : State) :
    Host.Outcome State Fault Refusal :=
  element (doMatchVS20 lh footer v) s

/-- The meaning of MATCH.V.S21. -/
def execMatchVS21 (lh : BitVec 3) (footer : Option (BitVec 8)) (v : BitVec 9) (s : State) :
    Host.Outcome State Fault Refusal :=
  element (doMatchVS21 lh footer v) s

/-- The meaning of MATCH.V.S22. -/
def execMatchVS22 (lh : BitVec 3) (footer : Option (BitVec 8)) (v : BitVec 10) (s : State) :
    Host.Outcome State Fault Refusal :=
  element (doMatchVS22 lh footer v) s

/-- The meaning of MATCH.V.S23. -/
def execMatchVS23 (lh : BitVec 3) (footer : Option (BitVec 8)) (v : BitVec 10) (s : State) :
    Host.Outcome State Fault Refusal :=
  element (doMatchVS23 lh footer v) s

/-- The meaning of MATCH.V.S24. -/
def execMatchVS24 (lh : BitVec 3) (footer : Option (BitVec 8)) (v : BitVec 11) (s : State) :
    Host.Outcome State Fault Refusal :=
  element (doMatchVS24 lh footer v) s

/-- The meaning of MATCH.V.S25. -/
def execMatchVS25 (lh : BitVec 3) (footer : Option (BitVec 8)) (v : BitVec 11) (s : State) :
    Host.Outcome State Fault Refusal :=
  element (doMatchVS25 lh footer v) s

/-- The meaning of MATCH.V.S26. -/
def execMatchVS26 (lh : BitVec 3) (footer : Option (BitVec 8)) (v : BitVec 12) (s : State) :
    Host.Outcome State Fault Refusal :=
  element (doMatchVS26 lh footer v) s

/-- The meaning of MATCH.V.S27. -/
def execMatchVS27 (lh : BitVec 3) (footer : Option (BitVec 8)) (v : BitVec 12) (s : State) :
    Host.Outcome State Fault Refusal :=
  element (doMatchVS27 lh footer v) s

/-- The meaning of MATCH.V.S28. -/
def execMatchVS28 (lh : BitVec 3) (footer : Option (BitVec 8)) (v : BitVec 13) (s : State) :
    Host.Outcome State Fault Refusal :=
  element (doMatchVS28 lh footer v) s

/-- The meaning of MATCH.V.S29. -/
def execMatchVS29 (lh : BitVec 3) (footer : Option (BitVec 8)) (v : BitVec 13) (s : State) :
    Host.Outcome State Fault Refusal :=
  element (doMatchVS29 lh footer v) s

/-- The meaning of MATCH.V.S30. -/
def execMatchVS30 (lh : BitVec 3) (footer : Option (BitVec 8)) (v : BitVec 14) (s : State) :
    Host.Outcome State Fault Refusal :=
  element (doMatchVS30 lh footer v) s

/-- The meaning of MATCH.V.S31. -/
def execMatchVS31 (lh : BitVec 3) (footer : Option (BitVec 8)) (v : BitVec 14) (s : State) :
    Host.Outcome State Fault Refusal :=
  element (doMatchVS31 lh footer v) s

/-- The meaning of MATCH.A.S4. -/
def execMatchAS4 (lh : BitVec 3) (footer : Option (BitVec 8)) (v : BitVec 1) (s : State) :
    Host.Outcome State Fault Refusal :=
  element (doMatchAS4 lh footer v) s

/-- The meaning of MATCH.A.S5. -/
def execMatchAS5 (lh : BitVec 3) (footer : Option (BitVec 8)) (v : BitVec 1) (s : State) :
    Host.Outcome State Fault Refusal :=
  element (doMatchAS5 lh footer v) s

/-- The meaning of MATCH.A.S6. -/
def execMatchAS6 (lh : BitVec 3) (footer : Option (BitVec 8)) (v : BitVec 2) (s : State) :
    Host.Outcome State Fault Refusal :=
  element (doMatchAS6 lh footer v) s

/-- The meaning of MATCH.A.S7. -/
def execMatchAS7 (lh : BitVec 3) (footer : Option (BitVec 8)) (v : BitVec 2) (s : State) :
    Host.Outcome State Fault Refusal :=
  element (doMatchAS7 lh footer v) s

/-- The meaning of MATCH.A.S8. -/
def execMatchAS8 (lh : BitVec 3) (footer : Option (BitVec 8)) (v : Option (BitVec 3)) (a : BitVec 3) (s : State) :
    Host.Outcome State Fault Refusal :=
  element (doMatchAS8 lh footer v a) s

/-- The meaning of MATCH.A.S9. -/
def execMatchAS9 (lh : BitVec 3) (footer : Option (BitVec 8)) (v : Option (BitVec 3)) (a : BitVec 3) (s : State) :
    Host.Outcome State Fault Refusal :=
  element (doMatchAS9 lh footer v a) s

/-- The meaning of MATCH.A.S10. -/
def execMatchAS10 (lh : BitVec 3) (footer : Option (BitVec 8)) (h : BitVec 1) (a : BitVec 3) (s : State) :
    Host.Outcome State Fault Refusal :=
  element (doMatchAS10 lh footer h a) s

/-- The meaning of MATCH.A.S11. -/
def execMatchAS11 (lh : BitVec 3) (footer : Option (BitVec 8)) (h : BitVec 1) (a : BitVec 3) (s : State) :
    Host.Outcome State Fault Refusal :=
  element (doMatchAS11 lh footer h a) s

/-- The meaning of MATCH.A.S12. -/
def execMatchAS12 (lh : BitVec 3) (footer : Option (BitVec 8)) (h : BitVec 2) (a : BitVec 3) (s : State) :
    Host.Outcome State Fault Refusal :=
  element (doMatchAS12 lh footer h a) s

/-- The meaning of MATCH.A.S13. -/
def execMatchAS13 (lh : BitVec 3) (footer : Option (BitVec 8)) (h : BitVec 2) (a : BitVec 3) (s : State) :
    Host.Outcome State Fault Refusal :=
  element (doMatchAS13 lh footer h a) s

/-- The meaning of MATCH.A.S14. -/
def execMatchAS14 (lh : BitVec 3) (footer : Option (BitVec 8)) (h : BitVec 3) (a : BitVec 3) (s : State) :
    Host.Outcome State Fault Refusal :=
  element (doMatchAS14 lh footer h a) s

/-- The meaning of MATCH.A.S15. -/
def execMatchAS15 (lh : BitVec 3) (footer : Option (BitVec 8)) (h : BitVec 3) (a : BitVec 3) (s : State) :
    Host.Outcome State Fault Refusal :=
  element (doMatchAS15 lh footer h a) s

/-- The meaning of MATCH.A.S16. -/
def execMatchAS16 (lh : BitVec 3) (footer : Option (BitVec 8)) (h : BitVec 4) (a : BitVec 3) (s : State) :
    Host.Outcome State Fault Refusal :=
  element (doMatchAS16 lh footer h a) s

/-- The meaning of MATCH.A.S17. -/
def execMatchAS17 (lh : BitVec 3) (footer : Option (BitVec 8)) (h : BitVec 4) (a : BitVec 3) (s : State) :
    Host.Outcome State Fault Refusal :=
  element (doMatchAS17 lh footer h a) s

/-- The meaning of MATCH.A.S18. -/
def execMatchAS18 (lh : BitVec 3) (footer : Option (BitVec 8)) (h : BitVec 5) (a : BitVec 3) (s : State) :
    Host.Outcome State Fault Refusal :=
  element (doMatchAS18 lh footer h a) s

/-- The meaning of MATCH.A.S19. -/
def execMatchAS19 (lh : BitVec 3) (footer : Option (BitVec 8)) (h : BitVec 5) (a : BitVec 3) (s : State) :
    Host.Outcome State Fault Refusal :=
  element (doMatchAS19 lh footer h a) s

/-- The meaning of MATCH.A.S20. -/
def execMatchAS20 (lh : BitVec 3) (footer : Option (BitVec 8)) (h : BitVec 6) (a : BitVec 3) (s : State) :
    Host.Outcome State Fault Refusal :=
  element (doMatchAS20 lh footer h a) s

/-- The meaning of MATCH.A.S21. -/
def execMatchAS21 (lh : BitVec 3) (footer : Option (BitVec 8)) (h : BitVec 6) (a : BitVec 3) (s : State) :
    Host.Outcome State Fault Refusal :=
  element (doMatchAS21 lh footer h a) s

/-- The meaning of MATCH.A.S22. -/
def execMatchAS22 (lh : BitVec 3) (footer : Option (BitVec 8)) (h : BitVec 7) (a : BitVec 3) (s : State) :
    Host.Outcome State Fault Refusal :=
  element (doMatchAS22 lh footer h a) s

/-- The meaning of MATCH.A.S23. -/
def execMatchAS23 (lh : BitVec 3) (footer : Option (BitVec 8)) (h : BitVec 7) (a : BitVec 3) (s : State) :
    Host.Outcome State Fault Refusal :=
  element (doMatchAS23 lh footer h a) s

/-- The meaning of MATCH.A.S24. -/
def execMatchAS24 (lh : BitVec 3) (footer : Option (BitVec 8)) (h : BitVec 8) (a : BitVec 3) (s : State) :
    Host.Outcome State Fault Refusal :=
  element (doMatchAS24 lh footer h a) s

/-- The meaning of MATCH.A.S25. -/
def execMatchAS25 (lh : BitVec 3) (footer : Option (BitVec 8)) (h : BitVec 8) (a : BitVec 3) (s : State) :
    Host.Outcome State Fault Refusal :=
  element (doMatchAS25 lh footer h a) s

/-- The meaning of MATCH.A.S26. -/
def execMatchAS26 (lh : BitVec 3) (footer : Option (BitVec 8)) (h : BitVec 9) (a : BitVec 3) (s : State) :
    Host.Outcome State Fault Refusal :=
  element (doMatchAS26 lh footer h a) s

/-- The meaning of MATCH.A.S27. -/
def execMatchAS27 (lh : BitVec 3) (footer : Option (BitVec 8)) (h : BitVec 9) (a : BitVec 3) (s : State) :
    Host.Outcome State Fault Refusal :=
  element (doMatchAS27 lh footer h a) s

/-- The meaning of MATCH.A.S28. -/
def execMatchAS28 (lh : BitVec 3) (footer : Option (BitVec 8)) (h : BitVec 10) (a : BitVec 3) (s : State) :
    Host.Outcome State Fault Refusal :=
  element (doMatchAS28 lh footer h a) s

/-- The meaning of MATCH.A.S29. -/
def execMatchAS29 (lh : BitVec 3) (footer : Option (BitVec 8)) (h : BitVec 10) (a : BitVec 3) (s : State) :
    Host.Outcome State Fault Refusal :=
  element (doMatchAS29 lh footer h a) s

/-- The meaning of MATCH.A.S30. -/
def execMatchAS30 (lh : BitVec 3) (footer : Option (BitVec 8)) (h : BitVec 11) (a : BitVec 3) (s : State) :
    Host.Outcome State Fault Refusal :=
  element (doMatchAS30 lh footer h a) s

/-- The meaning of MATCH.A.S31. -/
def execMatchAS31 (lh : BitVec 3) (footer : Option (BitVec 8)) (h : BitVec 11) (a : BitVec 3) (s : State) :
    Host.Outcome State Fault Refusal :=
  element (doMatchAS31 lh footer h a) s

/-- The meaning of LENFOOT. -/
def execLenFoot (f : BitVec 8) (s : State) :
    Host.Outcome State Fault Refusal :=
  element (doLenFoot f) s

/-- The meaning of ALIGNSYM. -/
def execAlignSym (a : BitVec 3) (s : State) :
    Host.Outcome State Fault Refusal :=
  element (doAlignSym a) s

/-- The meaning of ALIGN in the stream. -/
def execStreamAlign (s : State) :
    Host.Outcome State Fault Refusal :=
  element doStreamAlign s

/-- The meaning of UNCOMP.REPS. -/
def execUncompReps (r0 : U32) (r1 : U32) (r2 : U32) (s : State) :
    Host.Outcome State Fault Refusal :=
  element (doUncompReps r0 r1 r2) s

/-- The meaning of UNCOMP.BYTES. -/
def execUncompBytes (s : State) :
    Host.Outcome State Fault Refusal :=
  element doUncompBytes s

end Sys2Proof.Machine
end

