-- ==== Sys2Proof/Machine/Fetch.lean ====
section
/-!
DEFINITION. How the engine reads a bitstream element at the cursors: its fields in stream order, raw fields by
ReadBits or as bytes, symbols by Decode (30_encoding.md section 3), and then the decoder. A field that its rule
writes to a register as it is read (BLOCK_TYPE, the raw length arrays, the REP cache) is latched at once, so a fault
in a later field leaves it written (60_exceptions.md R177; notes/assumptions/15.md).
-/

namespace Sys2Proof.Machine

/-- Read one field of a kind. -/
def readField : FieldKind → Proc Field
  | .raw w => do
    let v ← readBits w
    return .raw w v
  | .sym x => do
    let v ← decodeTree x
    return .sym x v

/-- Read the fields of a plan, in order. -/
def readFields : List FieldKind → Proc (List Field)
  | [] => return []
  | k :: ks => do
    let f ← readField k
    let fs ← readFields ks
    return f :: fs

/-- The element of the fields read. -/
def decoded (fmt : Format) (fields : List Field) : Proc Instr :=
  match decode (.element fmt fields) with
  | .ok i => return i
  | .error _ => halt .undecodable

/-- A chunk header (45_framer.md R166): the control byte tells its form; in the implicit form it is read again as
a part of block_size. -/
def fetchChunkHeader : Proc Instr := do
  let c ← readByte
  if c = 0xFF then
    let fs ← lzxInt16
    let bs ← lzxInt16
    decoded .chunkHeader [.raw 8 c.toNat, .raw 16 fs, .raw 16 bs]
  else
    let s ← get
    writeByteOffset (s.byteOff - 1)
    let bs ← lzxInt16
    decoded .chunkHeader [.raw 16 bs]

/-- A block header (43_lzx_blocks.md R141): BLOCK_TYPE is written before the size is read. -/
def fetchBlockHeader : Proc Instr := do
  let type ← readBits 3
  update fun s => { s with blockType := BitVec.ofNat 3 type }
  let hi ← readBits 16
  let lo ← readBits 8
  decoded .blockHeader [.raw 3 type, .raw 16 hi, .raw 8 lo]

/-- `count` raw lengths of `w` bits from index `i` on, each handed to `latch` as it is read. -/
def readLengthFields (w : Nat) (latch : Nat → Nat → State → State) : Nat → Nat → Proc (List Field)
  | 0, _ => return []
  | n + 1, i => do
    let v ← readBits w
    update (latch i v)
    let fs ← readLengthFields w latch n (i + 1)
    return .raw w v :: fs

/-- ALIGNED_LEN[i] <- v (43_lzx_blocks.md R144). -/
def latchAlignedLen (i v : Nat) (s : State) : State :=
  { s with alignedLen := s.alignedLen.setIfInBounds i (some (BitVec.ofNat 3 v)) }

/-- PRETREE_LEN[i] <- v (43_lzx_blocks.md R147). -/
def latchPretreeLen (i v : Nat) (s : State) : State :=
  { s with pretreeLen := s.pretreeLen.setIfInBounds i (some (BitVec.ofNat 4 v)) }

/-- The eight lengths of the aligned tree (43_lzx_blocks.md R144). -/
def fetchAlignedLengths : Proc Instr := do
  let fs ← readLengthFields 3 latchAlignedLen 8 0
  decoded .alignedLengths fs

/-- The twenty lengths of a pretree (43_lzx_blocks.md R147). -/
def fetchPretree : Proc Instr := do
  let fs ← readLengthFields 4 latchPretreeLen 20 0
  decoded .pretree fs

/-- A pretree-coded item (43_lzx_blocks.md R147). The range of PT.SAME is checked before its second symbol is
read. -/
def fetchPretreeItem : Proc Instr := do
  let sym ← decodeTree .pretree
  if sym = 19 then
    let z ← readBits 1
    checkRun (z + 4)
    let s2 ← decodeTree .pretree
    decoded .pretreeItem [.sym .pretree sym, .raw 1 z, .sym .pretree s2]
  else
    let fs ← readFields (pretreePlan sym)
    decoded .pretreeItem (.sym .pretree sym :: fs)

/-- A main-tree element with the fields its symbol selects (44_lzx_decode.md R150, 30_encoding.md R78 to R80). The
block type and the parameter select the offset fields (30 R86). -/
def fetchMainItem : Proc Instr := do
  let sym ← decodeTree .main
  let s ← get
  let aligned := s.blockType == 2
  let mode := s.params.alignedExtra3
  let fs ← readFields (mainPlan aligned mode sym)
  decoded (.mainItem aligned mode) (.sym .main sym :: fs)

/-- A little-endian u32 read as bytes (43_lzx_blocks.md R146). -/
def readU32 : Proc Nat := do
  let bs ← readRaw 4
  return leNat bs

/-- The repeated offsets of an Uncompressed block (43_lzx_blocks.md R146), each written as it is read. -/
def fetchUncompReps : Proc Instr := do
  let r0 ← readU32
  update fun s => { s with rep0 := BitVec.ofNat 32 r0 }
  let r1 ← readU32
  update fun s => { s with rep1 := BitVec.ofNat 32 r1 }
  let r2 ← readU32
  update fun s => { s with rep2 := BitVec.ofNat 32 r2 }
  decoded .uncompReps [.raw 32 r0, .raw 32 r1, .raw 32 r2]

/-- Read the element that stands at the cursors in a place of the stream. -/
def fetchElement : ElemKind → Proc Instr
  | .chunkHeader => fetchChunkHeader
  | .transform => do
    let f ← readField (.raw 1)
    decoded .transform [f]
  | .blockHeader => fetchBlockHeader
  | .alignedLengths => fetchAlignedLengths
  | .pretree => fetchPretree
  | .pretreeItem => fetchPretreeItem
  | .mainItem => fetchMainItem
  | .lengthFooter => do
    let f ← readField (.sym .length)
    decoded .lengthFooter [f]
  | .alignedSymbol => do
    let f ← readField (.sym .aligned)
    decoded .alignedSymbol [f]
  | .align => decoded .align []
  | .uncompReps => fetchUncompReps
  | .uncompBytes => decoded .uncompBytes []

/-- Read the element at the cursors and run it: how every element is executed inside a command. -/
def runNext (k : ElemKind) : Proc Unit := do
  let i ← fetchElement k
  runElement i

end Sys2Proof.Machine
end

