-- ==== Sys2Proof/Machine/Engine.lean ====
section
/-!
DEFINITION. The engine commands LZX_RESET and LZX_DECOMPRESS (43_lzx_blocks.md R138, R139), with the control that
sequences the bitstream elements: the session header gate, the block dispatch with its runs, the tree definitions,
and the frame output.
-/

namespace Sys2Proof.Machine

/-! ## LZX_RESET -/

/-- LZX_RESET (43_lzx_blocks.md R138). -/
def doLzxReset : Proc Result := do
  update engineReset
  return .empty

/-- The meaning of LZX_RESET. -/
def execLzxReset (s : State) : Host.Outcome State Fault Refusal :=
  command 0x50 doLzxReset s

/-! ## Headers and trees -/

/-- SessionHeader() (43_lzx_blocks.md R140). -/
def sessionHeader : Proc Unit := do
  let s ← get
  if s.headerRead then return () else runNext .transform

/-- The loop of ReadLengths (43_lzx_blocks.md R147); every item advances the index, which bounds the loop. -/
def pretreeItems : Nat → Proc Unit
  | 0 => fun s => if s.tmp.idx < s.tmp.last then .error (.halt .fuelExhausted) s else .ok () s
  | n + 1 => do
    let s ← get
    if s.tmp.idx < s.tmp.last then
      runNext .pretreeItem
      pretreeItems n
    else return ()

/-- ReadLengths(X, first, last) (43_lzx_blocks.md R147). -/
def readLengths (x : LenArray) (first last : Nat) : Proc Unit := do
  runNext .pretree
  update fun s => s.withTmp fun t => { t with array := x, idx := first, last := last }
  pretreeItems (last - first)

/-- VerbatimTrees() (43_lzx_blocks.md R145). -/
def verbatimTrees : Proc Unit := do
  readLengths .main 0 256
  readLengths .main 256 512
  buildTree .main
  readLengths .length 0 249
  buildTree .length

/-- BlockHeader() (43_lzx_blocks.md R141): the header, then the trees or offsets of its type. An invalid type has
faulted in the header. -/
def readBlockHeader : Proc Unit := do
  runNext .blockHeader
  let s ← get
  if s.blockType = 2 then
    runNext .alignedLengths
    verbatimTrees
  else if s.blockType = 1 then verbatimTrees
  else if s.blockType = 3 then
    runNext .align
    runNext .uncompReps
  else raise .invalidBlockType

/-! ## Runs -/

/-- CompressedRun(run) (44_lzx_decode.md R150); every element lowers the run, which bounds the loop. -/
def compressedRun : Nat → Proc Unit
  | 0 => fun s => if 0 < s.tmp.run then .error (.halt .fuelExhausted) s else .ok () s
  | n + 1 => do
    let s ← get
    if 0 < s.tmp.run then
      runNext .mainItem
      compressedRun n
    else return ()

/-- The start of a run (43_lzx_blocks.md R142): the run is taken off the frame and the block, the window position is
taken modulo 65536, and the run may not cross the window's end. -/
def startRun (run : Nat) : Proc Unit := fun s =>
  let t : State :=
    { s with
      blockRemaining := BitVec.ofNat 24 (s.blockRemaining.toNat - run)
      windowPosn := BitVec.ofNat 17 (s.windowPosn.toNat % windowSize)
      tmp := { s.tmp with togo := s.tmp.togo - run, run := run } }
  if windowSize < t.windowPosn.toNat + run then .error (.raise .windowOverrun) t else .ok () t

/-- RunStep(togo) (43_lzx_blocks.md R142). -/
def runStep : Proc Unit := do
  let s ← get
  let run := min s.blockRemaining.toNat s.tmp.togo
  if run = 0 then return ()
  else
    startRun run
    if s.blockType = 1 ∨ s.blockType = 2 then compressedRun run
    else runNext .uncompBytes

/-- The loop of LZX_DECOMPRESS (43_lzx_blocks.md R139). Every turn lowers togo or reads a block header of 27 bits,
which bounds the loop (70_reset_and_hazards.md R194). -/
def frameLoop : Nat → Proc Unit
  | 0 => fun s => if 0 < s.tmp.togo then .error (.halt .fuelExhausted) s else .ok () s
  | n + 1 => do
    let s ← get
    if 0 < s.tmp.togo then
      if s.blockRemaining = 0 then readBlockHeader
      runStep
      frameLoop n
    else return ()

/-! ## Frame output -/

/-- The bytes of the given window cells, in order. -/
def readWindow : List Nat → Proc (List Byte)
  | [] => return []
  | i :: is => do
    let b ← winRead i
    let bs ← readWindow is
    return b :: bs

/-- The cells of the frame of `fs` bytes that ends at window position `posn`, where 0 stands for 65536
(44_lzx_decode.md R164). -/
def frameCells (posn fs : Nat) : List Nat :=
  (List.range fs).map fun i =>
    ((((if posn = 0 then windowSize else posn) : Int) - fs + i) % windowSize).toNat

/-- FrameOutput(fs) (44_lzx_decode.md R164). -/
def frameOutput (fs : Nat) : Proc (List Byte) := do
  let s ← get
  readWindow (frameCells s.windowPosn.toNat fs)

/-! ## LZX_DECOMPRESS -/

/-- Decompress(fs, bs): the body of LZX_DECOMPRESS after its operand check (43_lzx_blocks.md R139, 45_framer.md
R166). -/
def decompress (fs bs : Nat) : Proc (List Byte) := do
  update fun s => s.withTmp fun t => { t with chunkStart := s.byteOff, fs := fs, bs := bs }
  sessionHeader
  update fun s => s.withTmp fun t => { t with togo := fs }
  let s ← get
  frameLoop (fs + 8 * s.storeLen.toNat + 1)
  alignCursor
  frameOutput fs

/-- LZX_DECOMPRESS (43_lzx_blocks.md R139). -/
def doLzxDecompress (fs bs : U32) : Proc Result := do
  if frameBlockLimit < fs.toNat ∨ frameBlockLimit < bs.toNat then raise .badOperand
  else
    let out ← decompress fs.toNat bs.toNat
    return .bytes out

/-- The meaning of LZX_DECOMPRESS. -/
def execLzxDecompress (fs bs : U32) (s : State) : Host.Outcome State Fault Refusal :=
  command 0x51 (doLzxDecompress fs bs) s

end Sys2Proof.Machine
end

