-- ==== Sys2Proof/Machine/Framer.lean ====
section
/-!
DEFINITION. The framer's command FRM_RUN (45_framer.md).
-/

namespace Sys2Proof.Machine

/-- The loop of FRM_RUN (45_framer.md R166, R168). Every chunk header raises FRM_CONSUMED, which bounds the loop
(70_reset_and_hazards.md R194). After a chunk the next header is read where the engine stopped (R170). -/
def chunkLoop (compressedLen : Nat) : Nat → Proc Unit
  | 0 => fun s => if s.frmConsumed.toNat < compressedLen then .error (.halt .fuelExhausted) s else .ok () s
  | n + 1 => do
    let s ← get
    if s.frmConsumed.toNat < compressedLen then
      runNext .chunkHeader
      let s ← get
      let fs := s.tmp.fs
      let bs := s.tmp.bs
      if bs = 0 ∨ fs = 0 then return ()
      else if frameBlockLimit < bs ∨ frameBlockLimit < fs then raise .frameSizeRange
      else
        let out ← decompress fs bs
        update fun s =>
          { s with
            frmOut := s.frmOut ++ out
            frmConsumed := BitVec.ofNat 33 (s.frmConsumed.toNat + bs) }
        chunkLoop compressedLen n
    else return ()

/-- FRM_RUN (45_framer.md R166): the output length is checked once, after the loop (R169). -/
def doFrmRun (clen dlen : U32) : Proc Result := do
  update fun s => { s with frmConsumed := 0, frmOut := [] }
  chunkLoop clen.toNat clen.toNat
  let s ← get
  if s.frmOut.length = dlen.toNat then return .bytes s.frmOut
  else raise .outputLengthMismatch

/-- The meaning of FRM_RUN. -/
def execFrmRun (clen dlen : U32) (s : State) : Host.Outcome State Fault Refusal :=
  command 0x60 (doFrmRun clen dlen) s

end Sys2Proof.Machine
end

