-- ==== Sys2Proof/Machine/HostHuffman.lean ====
section
/-!
DEFINITION. The host's own use of the Huffman unit: HUF_BUILD and HUF_DECODE over the scratch table
(42_huffman.md R135, R136; 10_state.md R33).
-/

namespace Sys2Proof.Machine

/-- Write consecutive entries of a length array from index `i` on. -/
def writeLengths {n w : Nat} (xs : Vector (BitVec w) n) (i : Nat) : List Nat → Vector (BitVec w) n
  | [] => xs
  | l :: ls => writeLengths (xs.setIfInBounds i (BitVec.ofNat w l)) (i + 1) ls

/-- HOST_LEN[0 .. HOST_N-1] as numbers. -/
def State.hostLengths (s : State) : List Nat :=
  (s.hostLen.toList.take s.hostN.toNat).map (·.toNat)

/-- Are the operands of HUF_BUILD in range (30_encoding.md R68, R70; 42_huffman.md R135)? -/
def hufOperandsOk (n tb : Nat) (data : List Byte) : Bool :=
  1 ≤ n && n ≤ hostMaxSymbols && 1 ≤ tb && tb ≤ 16 && data.length == n && data.all fun b => b.toNat ≤ maxCodeLen

/-- HUF_BUILD (42_huffman.md R135): HOST_VALID is cleared and the lengths are kept also when the build fails. -/
def doHufBuild (n tb : U32) (data : List Byte) : Proc Result := do
  if hufOperandsOk n.toNat tb.toNat data then
    update fun s => { s with
      hostN := BitVec.ofNat 11 n.toNat
      hostTb := BitVec.ofNat 5 tb.toNat
      hostLen := writeLengths s.hostLen 0 (data.map (·.toNat))
      hostTable := { valid := false, leaves := [] } }
    let s ← get
    match buildTable s.params.emptyTreeAccept tb.toNat s.hostLengths with
    | .error c => raise c
    | .ok t =>
      update fun s => { s with hostTable := { valid := true, leaves := t } }
      return .empty
  else raise .badOperand

/-- The meaning of HUF_BUILD. -/
def execHufBuild (n tb : U32) (data : List Byte) (s : State) : Host.Outcome State Fault Refusal :=
  command 0x40 (doHufBuild n tb data) s

/-- HUF_DECODE (42_huffman.md R136). -/
def doHufDecode : Proc Result := do
  let s ← get
  if s.hostTable.valid then
    let sym ← decodeSym s.hostTable.codes (fun sym => s.hostLengths.getD sym 0) s.hostTb.toNat
    return .nat sym
  else raise .tableNotBuilt

/-- The meaning of HUF_DECODE. -/
def execHufDecode (s : State) : Host.Outcome State Fault Refusal :=
  command 0x41 doHufDecode s

end Sys2Proof.Machine
end

