-- ==== Sys2Proof/Machine/Observe.lean ====
section
/-!
DEFINITION. The observation port: REG_READ over the register map (10_state.md R36) and ARRAY_READ over the array
map (10 R37). Both run in FAULTED too (60_exceptions.md R179) and change nothing (41_buffer.md R122, R123).
-/

namespace Sys2Proof.Machine

/-- CFG_ALIGNED_EXTRA3_MODE as a number (10_state.md R36). -/
def extra3Code : Extra3Mode → Nat
  | .standard => 0
  | .sourceLiteral => 1

/-- The value of register number `a`, none for a reserved number (10_state.md R36). -/
def State.register (s : State) (a : Nat) : Option Nat :=
  match a with
  | 0x00 => some s.statusWord
  | 0x01 => some s.byteOffset.toNat
  | 0x02 => some s.bitOffset.toNat
  | 0x03 => some s.storeLen.toNat
  | 0x10 => some s.rep0.toNat
  | 0x11 => some s.rep1.toNat
  | 0x12 => some s.rep2.toNat
  | 0x13 => some s.headerRead.toNat
  | 0x14 => some s.blockType.toNat
  | 0x15 => some s.blockRemaining.toNat
  | 0x16 => some s.windowPosn.toNat
  | 0x17 => some s.frmConsumed.toNat
  | 0x18 => some s.frmOut.length
  | 0x19 => some s.validWord
  | 0x20 => some 16
  | 0x21 => some s.params.emptyTreeAccept.toNat
  | 0x22 => some (extra3Code s.params.alignedExtra3)
  | 0x30 => some s.faultByteOffset.toNat
  | 0x31 => some s.faultBitOffset.toNat
  | 0x32 => some s.faultOpcode.toNat
  | _ => none

/-- An array element as a result: its number, or `unwritten` (10_state.md R37). -/
def cellResult {w : Nat} : Option (BitVec w) → Result
  | some v => .nat v.toNat
  | none => .unwritten

/-- Element `i` of array `id`, none outside the array map (10_state.md R37). -/
def State.arrayElement (s : State) (id i : Nat) : Option Result :=
  match id with
  | 0 => s.mainLen[i]?.map fun l => .nat l.toNat
  | 1 => s.lengthLen[i]?.map fun l => .nat l.toNat
  | 2 => s.alignedLen[i]?.map cellResult
  | 3 => s.pretreeLen[i]?.map cellResult
  | 4 => if i < windowSize then some (cellResult (s.windowByte i)) else none
  | 5 => s.frmOut[i]?.map fun b => .nat b.toNat
  | 6 => if i < s.hostN.toNat then s.hostLen[i]?.map fun l => .nat l.toNat else none
  | _ => none

/-- REG_READ (41_buffer.md R122). -/
def doRegRead (a : U32) : Proc Result := do
  let s ← get
  match s.register a.toNat with
  | some v => return .nat v
  | none => raise .reservedRegister

/-- The meaning of REG_READ. -/
def execRegRead (a : U32) (s : State) : Host.Outcome State Fault Refusal :=
  observation 0x06 (doRegRead a) s

/-- ARRAY_READ (41_buffer.md R123). -/
def doArrayRead (a b : U32) : Proc Result := do
  let s ← get
  match s.arrayElement a.toNat b.toNat with
  | some r => return r
  | none => raise .badOperand

/-- The meaning of ARRAY_READ. -/
def execArrayRead (a b : U32) (s : State) : Host.Outcome State Fault Refusal :=
  observation 0x07 (doArrayRead a b) s

end Sys2Proof.Machine
end

