-- ==== Sys2Proof/Machine/Position.lean ====
section
/-!
DEFINITION. The position commands SEEK_ABS, SEEK_REL and GET_POS (41_buffer.md section 2).
-/

namespace Sys2Proof.Machine

/-- SEEK_ABS (41_buffer.md R95): BIT_OFFSET is kept, and an address past STORE_LEN is legal. -/
def doSeekAbs (a : U32) : Proc Result := do
  writeByteOffset a.toNat
  return .empty

/-- The meaning of SEEK_ABS. -/
def execSeekAbs (a : U32) (s : State) : Host.Outcome State Fault Refusal :=
  command 0x01 (doSeekAbs a) s

/-- SEEK_REL (41_buffer.md R96): the delta is signed, and a target below 0 is clamped to 0. -/
def doSeekRel (d : U32) : Proc Result := do
  let s ← get
  writeByteOffset ((s.byteOff : Int) + d.toInt).toNat
  return .empty

/-- The meaning of SEEK_REL. -/
def execSeekRel (d : U32) (s : State) : Host.Outcome State Fault Refusal :=
  command 0x02 (doSeekRel d) s

/-- GET_POS (41_buffer.md R97). -/
def doGetPos : Proc Result := do
  let s ← get
  return .position s.byteOff s.bitOff

/-- The meaning of GET_POS. -/
def execGetPos (s : State) : Host.Outcome State Fault Refusal :=
  command 0x05 doGetPos s

end Sys2Proof.Machine
end

