-- ==== Sys2Proof/Machine/Dispatch.lean ====
section
/-!
DEFINITION. One arm for every instruction: a direct call of its meaning.
-/

namespace Sys2Proof.Machine

def exec (i : Instr) (s : State) : Host.Outcome State Fault Refusal :=
  match i with
  -- host commands (30_encoding.md R68, R69)
  | .seekAbs a => Sys2Proof.Machine.execSeekAbs a s
  | .seekRel d => Sys2Proof.Machine.execSeekRel d s
  | .readBytes n => Sys2Proof.Machine.execReadBytes n s
  | .peekBytes n => Sys2Proof.Machine.execPeekBytes n s
  | .getPos => Sys2Proof.Machine.execGetPos s
  | .regRead a => Sys2Proof.Machine.execRegRead a s
  | .arrayRead a b => Sys2Proof.Machine.execArrayRead a b s
  | .readU8 => Sys2Proof.Machine.execReadU8 s
  | .readI8 => Sys2Proof.Machine.execReadI8 s
  | .readU16LE => Sys2Proof.Machine.execReadU16LE s
  | .readU16BE => Sys2Proof.Machine.execReadU16BE s
  | .readI16LE => Sys2Proof.Machine.execReadI16LE s
  | .readI16BE => Sys2Proof.Machine.execReadI16BE s
  | .readU32LE => Sys2Proof.Machine.execReadU32LE s
  | .readU32BE => Sys2Proof.Machine.execReadU32BE s
  | .readI32LE => Sys2Proof.Machine.execReadI32LE s
  | .readI32BE => Sys2Proof.Machine.execReadI32BE s
  | .readF32LE => Sys2Proof.Machine.execReadF32LE s
  | .readF32BE => Sys2Proof.Machine.execReadF32BE s
  | .readF64LE => Sys2Proof.Machine.execReadF64LE s
  | .readF64BE => Sys2Proof.Machine.execReadF64BE s
  | .read7Bit => Sys2Proof.Machine.execRead7Bit s
  | .readString => Sys2Proof.Machine.execReadString s
  | .readLzxInt16 => Sys2Proof.Machine.execReadLzxInt16 s
  | .readBits n => Sys2Proof.Machine.execReadBits n s
  | .peekBits n => Sys2Proof.Machine.execPeekBits n s
  | .setBitPos v => Sys2Proof.Machine.execSetBitPos v s
  | .align => Sys2Proof.Machine.execAlign s
  | .hufBuild n tb data => Sys2Proof.Machine.execHufBuild n tb data s
  | .hufDecode => Sys2Proof.Machine.execHufDecode s
  | .lzxReset => Sys2Proof.Machine.execLzxReset s
  | .lzxDecompress fs bs => Sys2Proof.Machine.execLzxDecompress fs bs s
  | .frmRun clen dlen => Sys2Proof.Machine.execFrmRun clen dlen s
  | .load data => Sys2Proof.Machine.execLoad data s
  | .reset => Sys2Proof.Machine.execReset s
  | .illegal op => Sys2Proof.Machine.execIllegal op s
  -- bitstream elements (30_encoding.md R71 to R83)
  | .frmExplicit fs bs => Sys2Proof.Machine.execFrmExplicit fs bs s
  | .frmImplicit bs => Sys2Proof.Machine.execFrmImplicit bs s
  | .transform t => Sys2Proof.Machine.execTransform t s
  | .blockInvalid0 size => Sys2Proof.Machine.execBlockInvalid0 size s
  | .blockVerbatim size => Sys2Proof.Machine.execBlockVerbatim size s
  | .blockAligned size => Sys2Proof.Machine.execBlockAligned size s
  | .blockUncompressed size => Sys2Proof.Machine.execBlockUncompressed size s
  | .blockInvalid4to7 t size => Sys2Proof.Machine.execBlockInvalid4to7 t size s
  | .alignedLengths a => Sys2Proof.Machine.execAlignedLengths a s
  | .pretree p => Sys2Proof.Machine.execPretree p s
  | .ptDelta sym => Sys2Proof.Machine.execPtDelta sym s
  | .ptZ4 z => Sys2Proof.Machine.execPtZ4 z s
  | .ptZ20 z => Sys2Proof.Machine.execPtZ20 z s
  | .ptSame z s2 => Sys2Proof.Machine.execPtSame z s2 s
  | .lit c => Sys2Proof.Machine.execLit c s
  | .matchS0 lh footer => Sys2Proof.Machine.execMatchS0 lh footer s
  | .matchS1 lh footer => Sys2Proof.Machine.execMatchS1 lh footer s
  | .matchS2 lh footer => Sys2Proof.Machine.execMatchS2 lh footer s
  | .matchS3 lh footer => Sys2Proof.Machine.execMatchS3 lh footer s
  | .matchVS4 lh footer v => Sys2Proof.Machine.execMatchVS4 lh footer v s
  | .matchVS5 lh footer v => Sys2Proof.Machine.execMatchVS5 lh footer v s
  | .matchVS6 lh footer v => Sys2Proof.Machine.execMatchVS6 lh footer v s
  | .matchVS7 lh footer v => Sys2Proof.Machine.execMatchVS7 lh footer v s
  | .matchVS8 lh footer v => Sys2Proof.Machine.execMatchVS8 lh footer v s
  | .matchVS9 lh footer v => Sys2Proof.Machine.execMatchVS9 lh footer v s
  | .matchVS10 lh footer v => Sys2Proof.Machine.execMatchVS10 lh footer v s
  | .matchVS11 lh footer v => Sys2Proof.Machine.execMatchVS11 lh footer v s
  | .matchVS12 lh footer v => Sys2Proof.Machine.execMatchVS12 lh footer v s
  | .matchVS13 lh footer v => Sys2Proof.Machine.execMatchVS13 lh footer v s
  | .matchVS14 lh footer v => Sys2Proof.Machine.execMatchVS14 lh footer v s
  | .matchVS15 lh footer v => Sys2Proof.Machine.execMatchVS15 lh footer v s
  | .matchVS16 lh footer v => Sys2Proof.Machine.execMatchVS16 lh footer v s
  | .matchVS17 lh footer v => Sys2Proof.Machine.execMatchVS17 lh footer v s
  | .matchVS18 lh footer v => Sys2Proof.Machine.execMatchVS18 lh footer v s
  | .matchVS19 lh footer v => Sys2Proof.Machine.execMatchVS19 lh footer v s
  | .matchVS20 lh footer v => Sys2Proof.Machine.execMatchVS20 lh footer v s
  | .matchVS21 lh footer v => Sys2Proof.Machine.execMatchVS21 lh footer v s
  | .matchVS22 lh footer v => Sys2Proof.Machine.execMatchVS22 lh footer v s
  | .matchVS23 lh footer v => Sys2Proof.Machine.execMatchVS23 lh footer v s
  | .matchVS24 lh footer v => Sys2Proof.Machine.execMatchVS24 lh footer v s
  | .matchVS25 lh footer v => Sys2Proof.Machine.execMatchVS25 lh footer v s
  | .matchVS26 lh footer v => Sys2Proof.Machine.execMatchVS26 lh footer v s
  | .matchVS27 lh footer v => Sys2Proof.Machine.execMatchVS27 lh footer v s
  | .matchVS28 lh footer v => Sys2Proof.Machine.execMatchVS28 lh footer v s
  | .matchVS29 lh footer v => Sys2Proof.Machine.execMatchVS29 lh footer v s
  | .matchVS30 lh footer v => Sys2Proof.Machine.execMatchVS30 lh footer v s
  | .matchVS31 lh footer v => Sys2Proof.Machine.execMatchVS31 lh footer v s
  | .matchAS4 lh footer v => Sys2Proof.Machine.execMatchAS4 lh footer v s
  | .matchAS5 lh footer v => Sys2Proof.Machine.execMatchAS5 lh footer v s
  | .matchAS6 lh footer v => Sys2Proof.Machine.execMatchAS6 lh footer v s
  | .matchAS7 lh footer v => Sys2Proof.Machine.execMatchAS7 lh footer v s
  | .matchAS8 lh footer v a => Sys2Proof.Machine.execMatchAS8 lh footer v a s
  | .matchAS9 lh footer v a => Sys2Proof.Machine.execMatchAS9 lh footer v a s
  | .matchAS10 lh footer h a => Sys2Proof.Machine.execMatchAS10 lh footer h a s
  | .matchAS11 lh footer h a => Sys2Proof.Machine.execMatchAS11 lh footer h a s
  | .matchAS12 lh footer h a => Sys2Proof.Machine.execMatchAS12 lh footer h a s
  | .matchAS13 lh footer h a => Sys2Proof.Machine.execMatchAS13 lh footer h a s
  | .matchAS14 lh footer h a => Sys2Proof.Machine.execMatchAS14 lh footer h a s
  | .matchAS15 lh footer h a => Sys2Proof.Machine.execMatchAS15 lh footer h a s
  | .matchAS16 lh footer h a => Sys2Proof.Machine.execMatchAS16 lh footer h a s
  | .matchAS17 lh footer h a => Sys2Proof.Machine.execMatchAS17 lh footer h a s
  | .matchAS18 lh footer h a => Sys2Proof.Machine.execMatchAS18 lh footer h a s
  | .matchAS19 lh footer h a => Sys2Proof.Machine.execMatchAS19 lh footer h a s
  | .matchAS20 lh footer h a => Sys2Proof.Machine.execMatchAS20 lh footer h a s
  | .matchAS21 lh footer h a => Sys2Proof.Machine.execMatchAS21 lh footer h a s
  | .matchAS22 lh footer h a => Sys2Proof.Machine.execMatchAS22 lh footer h a s
  | .matchAS23 lh footer h a => Sys2Proof.Machine.execMatchAS23 lh footer h a s
  | .matchAS24 lh footer h a => Sys2Proof.Machine.execMatchAS24 lh footer h a s
  | .matchAS25 lh footer h a => Sys2Proof.Machine.execMatchAS25 lh footer h a s
  | .matchAS26 lh footer h a => Sys2Proof.Machine.execMatchAS26 lh footer h a s
  | .matchAS27 lh footer h a => Sys2Proof.Machine.execMatchAS27 lh footer h a s
  | .matchAS28 lh footer h a => Sys2Proof.Machine.execMatchAS28 lh footer h a s
  | .matchAS29 lh footer h a => Sys2Proof.Machine.execMatchAS29 lh footer h a s
  | .matchAS30 lh footer h a => Sys2Proof.Machine.execMatchAS30 lh footer h a s
  | .matchAS31 lh footer h a => Sys2Proof.Machine.execMatchAS31 lh footer h a s
  | .lenFoot f => Sys2Proof.Machine.execLenFoot f s
  | .alignSym a => Sys2Proof.Machine.execAlignSym a s
  | .streamAlign => Sys2Proof.Machine.execStreamAlign s
  | .uncompReps r0 r1 r2 => Sys2Proof.Machine.execUncompReps r0 r1 r2 s
  | .uncompBytes => Sys2Proof.Machine.execUncompBytes s

end Sys2Proof.Machine
end

