-- ==== Sys2Proof/Machine/Step.lean ====
section
/-!
DEFINITION. The step: the core takes the oldest command of the host and runs it. A command is one atomic step
(00_scope.md R17); the bitstream elements run inside it, fetched by the engine's loops (Machine/Engine.lean). With no
command the core waits (60_exceptions.md R176, 70_reset_and_hazards.md R192).
-/

namespace Sys2Proof.Machine

/-- One step of the core. -/
def step (s : State) : Host.Outcome State Fault Refusal :=
  match s.pending with
  | [] => .next s
  | c :: rest => exec (decodeCommand c) { s with pending := rest }

/-! ## Placing one instruction -/

/-- The lengths of a main tree whose codes are the 9-bit main symbols themselves (30_encoding.md R78): 512 codes of
9 bits. -/
def flatMainLengths : Vector (BitVec 5) 656 :=
  ⟨(List.replicate 512 (9 : BitVec 5) ++ List.replicate 144 0).toArray,
    by rw [List.size_toArray, List.length_append, List.length_replicate, List.length_replicate]⟩

/-- The table the build places for them. -/
def flatMainTable : Table :=
  { valid := true, leaves := (List.range 512).reverse.map fun i => ⟨i, 9, i⟩ }

/-- The lengths of a length tree in which symbol 0 has the code 0000000: 7 codes of 7 bits, 242 of 8 bits. -/
def flatLengthLengths : Vector (BitVec 5) 250 :=
  ⟨(List.replicate 7 (7 : BitVec 5) ++ List.replicate 242 8 ++ List.replicate 1 0).toArray,
    by simp only [List.size_toArray, List.length_append, List.length_replicate]⟩

/-- The table the build places for them. -/
def flatLengthTable : Table :=
  { valid := true, leaves := (List.range 249).reverse.map fun i => if i < 7 then ⟨i, 7, i⟩ else ⟨i, 8, i + 7⟩ }

/-- A store of the given bytes with the cursors at its start (70_reset_and_hazards.md R190). -/
def State.withStore (s : State) (data : List Byte) : State :=
  { s with
    store := Memory.ofBytes 0 data
    storeLen := BitVec.ofNat 32 data.length
    byteOffset := 0
    bitOffset := 0 }

/-- The bytes that the element of main symbol `w` gives when its fields after the symbol are zeros: 1 for a literal, the
length of a match else, 9 for the footer 0 (30_encoding.md R78, R79). -/
def outputLength (w : Nat) : Nat :=
  if w % 512 < 256 then 1 else if w % 8 = 7 then 9 else w % 8 + 2

/-- The state whose very next step runs the instruction of an opcode-table word (notes/assumptions/10.md). A host
command (8 bits) is put first in the host's commands, with operands of zeros. A main-tree element (16 bits) stands in
the stream at the cursors, and the host asks for its output by LZX_DECOMPRESS: a session is open in a Verbatim block of
just that many bytes, whose main tree codes each symbol by its 9-bit value, so the command fetches and runs this element
alone. -/
def State.withFetchWord (s : State) (nbits w : Nat) : State :=
  if nbits = 8 then { s with pending := [{ opcode := BitVec.ofNat 8 w }] }
  else
    { s.withStore (packFrames 4 (bitsOf 9 w ++ List.replicate 55 false)) with
      pending := [{ opcode := 0x51, a := BitVec.ofNat 32 (outputLength w) }]
      headerRead := true
      blockType := 1
      blockRemaining := BitVec.ofNat 24 (outputLength w)
      mainLen := flatMainLengths
      mainTable := flatMainTable
      lengthLen := flatLengthLengths
      lengthTable := flatLengthTable }

end Sys2Proof.Machine
end

