-- ==== Sys2Proof/Safety.lean ====
section
/-!
DEFINITION. What counts as a safe run, and the terms in which claims about the core are made: the response and the
fault record of a command, the bits of the stream at the cursors, the Kraft sums of a length array, the invariant of
the state, and a run of commands with its success (70_reset_and_hazards.md R193).
-/

namespace Sys2Proof.Safety

open Sys2Proof.Machine

/-! ## How a command ends -/

/-- The end of a command with `ok(r)`: of the state it has reached, only the response and the command's temporaries
change (00_scope.md R14, R18; 10_state.md R38). -/
def succeeded (r : Result) (s : State) : State :=
  { s with tmp := {}, response := some (.ok r) }

/-- Fault entry written out (60_exceptions.md R175, R176): the five fault registers, STATUS, the response; and the
temporaries of the command of opcode `op` are gone. -/
def faulting (op : BitVec 8) (c : Cause) (s : State) : State :=
  { s with
    faultClass := c.faultClass.code
    faultCause := c.code
    faultOpcode := op
    faultByteOffset := s.byteOffset
    faultBitOffset := s.bitOffset
    faulted := true
    tmp := {}
    response := some (.fault c) }

/-- `refused` (60_exceptions.md R179): only the response tells of it. -/
def refusing (s : State) : State :=
  { s with response := some .refused }

/-! ## The bytes at the byte cursor -/

/-- The next `n` bytes of STORE. -/
def bytesAhead (s : State) (n : Nat) : List Byte :=
  (List.range n).map fun i => s.storeByte (s.byteOff + i)

/-- The next `n` bytes as a little-endian number (20_memory.md R47). -/
def littleEndian (s : State) (n : Nat) : Nat :=
  ((List.range n).map fun i => (s.storeByte (s.byteOff + i)).toNat * 2 ^ (8 * i)).sum

/-- The next `n` bytes as a big-endian number (20_memory.md R48). -/
def bigEndian (s : State) (n : Nat) : Nat :=
  ((List.range n).map fun i => (s.storeByte (s.byteOff + i)).toNat * 2 ^ (8 * (n - 1 - i))).sum

/-- The `w`-bit pattern `v` as a two's complement number (00_scope.md R10). -/
def signed (w v : Nat) : Int :=
  if v < 2 ^ (w - 1) then v else (v : Int) - 2 ^ w

/-- The first `k` bytes ahead as groups of 7 bits, the lowest first (41_buffer.md R115). -/
def varint (s : State) (k : Nat) : Nat :=
  ((List.range k).map fun i => (s.storeByte (s.byteOff + i)).toNat % 128 * 2 ^ (7 * i)).sum

/-- The first `k` bytes ahead are in STORE, and each has its continuation bit set (41_buffer.md R115). -/
abbrev continued (s : State) (k : Nat) : Prop :=
  s.byteOff + k ≤ s.storeLen.toNat ∧ ∀ i < k, 128 ≤ (s.storeByte (s.byteOff + i)).toNat

/-- A 7-bit integer of `k + 1` bytes stands ahead in STORE. -/
abbrev varintAhead (s : State) (k : Nat) : Prop :=
  k < 5 ∧ continued s k ∧ s.byteOff + k < s.storeLen.toNat ∧ (s.storeByte (s.byteOff + k)).toNat < 128

/-- Both cursors set. -/
def positioned (s : State) (byteOff bitOff : Nat) : State :=
  { s with byteOffset := BitVec.ofNat 32 byteOff, bitOffset := BitVec.ofNat 4 bitOff }

/-- The byte cursor moved forward by `n` bytes, BIT_OFFSET kept (41_buffer.md R94). -/
def skipped (s : State) (n : Nat) : State :=
  { s with byteOffset := BitVec.ofNat 32 (s.byteOff + n) }

/-- The cursors at a frame boundary: on to the next frame unless BIT_OFFSET is 0 (41_buffer.md R92). -/
def aligned (s : State) : State :=
  if s.bitOff = 0 then s else positioned s (s.byteOff + 2) 0

/-! ## The stream at the cursors -/

/-- Bit `j` of the stream counted from the cursors: bit frames low byte first, bits from 15 down to 0
(20_memory.md R50, R51). -/
def streamBit (s : State) (j : Nat) : Bool :=
  (s.frame16 (s.byteOff + 2 * ((s.bitOff + j) / 16))).testBit (15 - (s.bitOff + j) % 16)

/-- The next `n` bits of the stream, first bit first. -/
def streamBits (s : State) (n : Nat) : List Bool :=
  (List.range n).map (streamBit s)

/-- Every bit frame that the next `n` bits touch lies in STORE: ceil((BIT_OFFSET + n) / 16) frames, none for n = 0
(41_buffer.md R90, R91; 20_memory.md R57). -/
abbrev framesPresent (s : State) (n : Nat) : Prop :=
  n = 0 ∨ s.byteOff + 2 * ((s.bitOff + n + 15) / 16) ≤ s.storeLen.toNat

/-- The cursors moved forward by `n` bits, by whole frames (41_buffer.md R90, R93). -/
def advanced (s : State) (n : Nat) : State :=
  { s with
    byteOffset := BitVec.ofNat 32 (s.byteOff + 2 * ((s.bitOff + n) / 16))
    bitOffset := BitVec.ofNat 4 ((s.bitOff + n) % 16) }

/-- The cursors are within STORE: the byte cursor is at most STORE_LEN, and a bit frame that is begun is there whole
(10_state.md R20, R21; 41_buffer.md R90). -/
def cursorsInStore (s : State) : Prop :=
  s.byteOff ≤ s.storeLen.toNat ∧ (s.bitOff ≠ 0 → s.byteOff + 2 ≤ s.storeLen.toNat)

/-- The linear bit position of the cursors (10_state.md R22). -/
def bitPosition (s : State) : Nat :=
  8 * s.byteOff + s.bitOff

/-! ## Length arrays -/

/-- The Kraft sum of the codes of length 1 to `limit`, in units of 2^-16 (00_scope.md R16, 42_huffman.md R127): 65536
stands for 1. -/
def kraft (limit : Nat) (lens : List Nat) : Nat :=
  (lens.map fun l => if 1 ≤ l ∧ l ≤ limit then 2 ^ (16 - l) else 0).sum

/-- The `k`-th of the raw fields of `w` bits that stand at the cursors. -/
def rawField (s : State) (w k : Nat) : Nat :=
  ofBits ((streamBits s (w * (k + 1))).drop (w * k))

/-- The cursors where a bit read over a missing frame leaves them: past the frame it has begun in, if that one is in
STORE (41_buffer.md R90). -/
def pastFrames (s : State) : State :=
  if s.byteOff + 2 ≤ s.storeLen.toNat then positioned s (s.byteOff + 2) 0 else s

/-- A length array whose entries are code lengths 0..16. -/
abbrev codeLengths (lens : List Nat) : Prop :=
  ∀ l ∈ lens, l ≤ maxCodeLen

/-! ## Trees -/

/-- The outcome of a build by the Kraft sums (42_huffman.md R127): none for success. -/
def buildOutcome (accept : Bool) (tb : Nat) (lens : List Nat) : Option Cause :=
  if 65536 < kraft tb lens then some .buildOverrun
  else if kraft tb lens = 65536 then none
  else if 65536 < kraft 16 lens then some .buildOverrun
  else if kraft 16 lens = 65536 then none
  else if accept = true ∧ ∀ l ∈ lens, l = 0 then none
  else some .buildIncomplete

/-- The table of a tree is VALID and is what the build makes of `lens` (42_huffman.md R126). -/
def builtFor (t : Table) (accept : Bool) (tb : Nat) (lens : List Nat) : Prop :=
  t.valid = true ∧ buildTable accept tb lens = .ok t.leaves

/-- A tree of the engine that decodes every stream: its table is built from its lengths, whose Kraft sum is 1
(42_huffman.md R129). -/
def treeReady (s : State) (x : Tree) : Prop :=
  builtFor (s.treeTable x) s.params.emptyTreeAccept (treeBits x) (s.treeLengths x) ∧
    kraft 16 (s.treeLengths x) = 65536 ∧ codeLengths (s.treeLengths x)

/-- The bits of the fields of an element, in stream order (30_encoding.md R84, R87). -/
def fieldsBits (s : State) (fields : List Field) : List Bool :=
  fields.flatMap (fieldBits s.treeLengths)

/-- The fields of an element stand at the cursors: their bits come next, every symbol has a code in a tree that is
ready, and STORE holds 32 bits more than theirs, which covers every lookahead (70_reset_and_hazards.md R195). -/
def fieldsAhead (s : State) (fields : List Field) : Prop :=
  streamBits s (fieldsBits s fields).length = fieldsBits s fields ∧
    framesPresent s ((fieldsBits s fields).length + 32) ∧
    ∀ x v, Field.sym x v ∈ fields → treeReady s x ∧ (s.treeLengths x).getD v 0 ≠ 0

/-- A run of `count` equal lengths of value `v` written at the current index of ReadLengths (43_lzx_blocks.md R147):
those entries, the index, and nothing else. -/
structure RunWritten (s t : State) (count v : Nat) : Prop where
  main : ∀ i : Fin 656, t.mainLen[i] =
    if s.tmp.array = .main ∧ s.tmp.idx ≤ i.val ∧ i.val < s.tmp.idx + count then BitVec.ofNat 5 v else s.mainLen[i]
  length : ∀ i : Fin 250, t.lengthLen[i] =
    if s.tmp.array = .length ∧ s.tmp.idx ≤ i.val ∧ i.val < s.tmp.idx + count then BitVec.ofNat 5 v
    else s.lengthLen[i]
  rest : t = { s with
    mainLen := t.mainLen
    lengthLen := t.lengthLen
    tmp := { s.tmp with idx := s.tmp.idx + count } }

/-- The new length of a delta: (X[i] - symbol) mod 17, the remainder that is not negative (43_lzx_blocks.md R147). -/
def deltaOf (s : State) (symbol : Nat) : Nat :=
  (((s.lengthAt s.tmp.array s.tmp.idx : Int) - symbol) % 17).toNat

/-! ## Matches -/

/-- Where a match takes its offset from (44_lzx_decode.md R154 to R159). -/
inductive OffsetSource where
  /-- Slots 0, 1 and 2: the repeated offset of that number. -/
  | repeated (k : Fin 3)
  /-- Slots 3 to 31: this offset. -/
  | coded (off : Nat)
deriving DecidableEq, Repr

/-- The length of a match: the header plus 2, or 9 plus the footer (30_encoding.md R79). -/
def lengthOf (lh : BitVec 3) (footer : Option (BitVec 8)) : Nat :=
  if lh.toNat = 7 then 9 + (footer.getD 0).toNat else lh.toNat + 2

/-- Every match with its length and its offset, read off the tables of 30_encoding.md R80 and 10_state.md R31: the
number before each `+` is POSITION_BASE - 2 of the slot. -/
def matchForm : Instr → Option (Nat × OffsetSource)
  | .matchS0 lh f => some (lengthOf lh f, .repeated 0)
  | .matchS1 lh f => some (lengthOf lh f, .repeated 1)
  | .matchS2 lh f => some (lengthOf lh f, .repeated 2)
  | .matchS3 lh f => some (lengthOf lh f, .coded 1)
  | .matchVS4 lh f v => some (lengthOf lh f, .coded (2 + v.toNat))
  | .matchVS5 lh f v => some (lengthOf lh f, .coded (4 + v.toNat))
  | .matchVS6 lh f v => some (lengthOf lh f, .coded (6 + v.toNat))
  | .matchVS7 lh f v => some (lengthOf lh f, .coded (10 + v.toNat))
  | .matchVS8 lh f v => some (lengthOf lh f, .coded (14 + v.toNat))
  | .matchVS9 lh f v => some (lengthOf lh f, .coded (22 + v.toNat))
  | .matchVS10 lh f v => some (lengthOf lh f, .coded (30 + v.toNat))
  | .matchVS11 lh f v => some (lengthOf lh f, .coded (46 + v.toNat))
  | .matchVS12 lh f v => some (lengthOf lh f, .coded (62 + v.toNat))
  | .matchVS13 lh f v => some (lengthOf lh f, .coded (94 + v.toNat))
  | .matchVS14 lh f v => some (lengthOf lh f, .coded (126 + v.toNat))
  | .matchVS15 lh f v => some (lengthOf lh f, .coded (190 + v.toNat))
  | .matchVS16 lh f v => some (lengthOf lh f, .coded (254 + v.toNat))
  | .matchVS17 lh f v => some (lengthOf lh f, .coded (382 + v.toNat))
  | .matchVS18 lh f v => some (lengthOf lh f, .coded (510 + v.toNat))
  | .matchVS19 lh f v => some (lengthOf lh f, .coded (766 + v.toNat))
  | .matchVS20 lh f v => some (lengthOf lh f, .coded (1022 + v.toNat))
  | .matchVS21 lh f v => some (lengthOf lh f, .coded (1534 + v.toNat))
  | .matchVS22 lh f v => some (lengthOf lh f, .coded (2046 + v.toNat))
  | .matchVS23 lh f v => some (lengthOf lh f, .coded (3070 + v.toNat))
  | .matchVS24 lh f v => some (lengthOf lh f, .coded (4094 + v.toNat))
  | .matchVS25 lh f v => some (lengthOf lh f, .coded (6142 + v.toNat))
  | .matchVS26 lh f v => some (lengthOf lh f, .coded (8190 + v.toNat))
  | .matchVS27 lh f v => some (lengthOf lh f, .coded (12286 + v.toNat))
  | .matchVS28 lh f v => some (lengthOf lh f, .coded (16382 + v.toNat))
  | .matchVS29 lh f v => some (lengthOf lh f, .coded (24574 + v.toNat))
  | .matchVS30 lh f v => some (lengthOf lh f, .coded (32766 + v.toNat))
  | .matchVS31 lh f v => some (lengthOf lh f, .coded (49150 + v.toNat))
  | .matchAS4 lh f v => some (lengthOf lh f, .coded (2 + v.toNat))
  | .matchAS5 lh f v => some (lengthOf lh f, .coded (4 + v.toNat))
  | .matchAS6 lh f v => some (lengthOf lh f, .coded (6 + v.toNat))
  | .matchAS7 lh f v => some (lengthOf lh f, .coded (10 + v.toNat))
  | .matchAS8 lh f none a => some (lengthOf lh f, .coded (14 + a.toNat))
  | .matchAS8 lh f (some v) a => some (lengthOf lh f, .coded (14 + v.toNat + a.toNat))
  | .matchAS9 lh f none a => some (lengthOf lh f, .coded (22 + a.toNat))
  | .matchAS9 lh f (some v) a => some (lengthOf lh f, .coded (22 + v.toNat + a.toNat))
  | .matchAS10 lh f h a => some (lengthOf lh f, .coded (30 + 8 * h.toNat + a.toNat))
  | .matchAS11 lh f h a => some (lengthOf lh f, .coded (46 + 8 * h.toNat + a.toNat))
  | .matchAS12 lh f h a => some (lengthOf lh f, .coded (62 + 8 * h.toNat + a.toNat))
  | .matchAS13 lh f h a => some (lengthOf lh f, .coded (94 + 8 * h.toNat + a.toNat))
  | .matchAS14 lh f h a => some (lengthOf lh f, .coded (126 + 8 * h.toNat + a.toNat))
  | .matchAS15 lh f h a => some (lengthOf lh f, .coded (190 + 8 * h.toNat + a.toNat))
  | .matchAS16 lh f h a => some (lengthOf lh f, .coded (254 + 8 * h.toNat + a.toNat))
  | .matchAS17 lh f h a => some (lengthOf lh f, .coded (382 + 8 * h.toNat + a.toNat))
  | .matchAS18 lh f h a => some (lengthOf lh f, .coded (510 + 8 * h.toNat + a.toNat))
  | .matchAS19 lh f h a => some (lengthOf lh f, .coded (766 + 8 * h.toNat + a.toNat))
  | .matchAS20 lh f h a => some (lengthOf lh f, .coded (1022 + 8 * h.toNat + a.toNat))
  | .matchAS21 lh f h a => some (lengthOf lh f, .coded (1534 + 8 * h.toNat + a.toNat))
  | .matchAS22 lh f h a => some (lengthOf lh f, .coded (2046 + 8 * h.toNat + a.toNat))
  | .matchAS23 lh f h a => some (lengthOf lh f, .coded (3070 + 8 * h.toNat + a.toNat))
  | .matchAS24 lh f h a => some (lengthOf lh f, .coded (4094 + 8 * h.toNat + a.toNat))
  | .matchAS25 lh f h a => some (lengthOf lh f, .coded (6142 + 8 * h.toNat + a.toNat))
  | .matchAS26 lh f h a => some (lengthOf lh f, .coded (8190 + 8 * h.toNat + a.toNat))
  | .matchAS27 lh f h a => some (lengthOf lh f, .coded (12286 + 8 * h.toNat + a.toNat))
  | .matchAS28 lh f h a => some (lengthOf lh f, .coded (16382 + 8 * h.toNat + a.toNat))
  | .matchAS29 lh f h a => some (lengthOf lh f, .coded (24574 + 8 * h.toNat + a.toNat))
  | .matchAS30 lh f h a => some (lengthOf lh f, .coded (32766 + 8 * h.toNat + a.toNat))
  | .matchAS31 lh f h a => some (lengthOf lh f, .coded (49150 + 8 * h.toNat + a.toNat))
  | _ => none

/-- The offset of a match. -/
def offsetOf (s : State) : OffsetSource → Nat
  | .repeated 0 => s.rep0.toNat
  | .repeated 1 => s.rep1.toNat
  | .repeated 2 => s.rep2.toNat
  | .coded off => off

/-- The repeated-offset cache after a match has taken its offset (44_lzx_decode.md R154 to R159), with the length and
the offset in the command's temporaries. -/
def cacheAfter (s : State) (len : Nat) (src : OffsetSource) : State :=
  let t : State := { s with tmp := { s.tmp with matchLen := len, matchOff := offsetOf s src } }
  match src with
  | .repeated 0 => t
  | .repeated 1 => { t with rep0 := s.rep1, rep1 := s.rep0 }
  | .repeated 2 => { t with rep0 := s.rep2, rep2 := s.rep0 }
  | .coded off => { t with rep0 := BitVec.ofNat 32 off, rep1 := s.rep0, rep2 := s.rep1 }

/-- The cell that a copy of offset `off` reads for cell `i` (44_lzx_decode.md R162). -/
def sourceCell (i off : Nat) : Nat :=
  (i + 65536 - off) % 65536

/-- A match of length `len` and offset `off` can be copied: the checks of 44_lzx_decode.md R160 and R161 pass, the
run lies in the window (43_lzx_blocks.md R142), and the first `min len off` source cells are written. -/
structure CopyReady (s : State) (len off : Nat) : Prop where
  offset : 1 ≤ off ∧ off ≤ 65536
  fits : len ≤ s.tmp.run ∧ s.windowPosn.toNat + len ≤ 65536
  sources : ∀ j < len, j < off → s.windowByte (sourceCell (s.windowPosn.toNat + j) off) ≠ none

/-- WINDOW `w` after `count` bytes of a copy of offset `off` into state `s` (44_lzx_decode.md R162): a copy longer
than its offset repeats its last `off` bytes (20_memory.md R60), and every other cell is as before. -/
def copiedWindow (s : State) (count off : Nat) (w : Memory) : Prop :=
  (Memory.wf s.window → Memory.wf w) ∧ ∀ x, Memory.get w x =
    if s.windowPosn.toNat ≤ x ∧ x < s.windowPosn.toNat + count then
      s.windowByte (sourceCell (s.windowPosn.toNat + (x - s.windowPosn.toNat) % off) off)
    else s.windowByte x

/-- The end of a match copied into window `w`. -/
def copied (s : State) (len : Nat) (w : Memory) : State :=
  { s with
    window := w
    windowPosn := BitVec.ofNat 17 (s.windowPosn.toNat + len)
    tmp := { s.tmp with run := s.tmp.run - len } }

/-- WINDOW `w` after the bytes `bs` were written to state `s` from cell `i` on; every other cell is as before. -/
def writtenWindow (s : State) (i : Nat) (bs : List Byte) (w : Memory) : Prop :=
  (Memory.wf s.window → Memory.wf w) ∧
    ∀ x, Memory.get w x = if i ≤ x ∧ x < i + bs.length then bs[x - i]? else s.windowByte x

/-! ## What runs inside a command -/

/-- The element of kind `k` that stands at the cursors of `s` is `i`, and its meaning leads, without a fault, to `t`. -/
def ElementRun (k : ElemKind) (s : State) (i : Instr) (t : State) : Prop :=
  ∃ u, fetchElement k s = .ok i u ∧ exec i u = .next t ∧ t.faulted = false

/-- Pretree items run one after the other, up to the end of the range (43_lzx_blocks.md R147). -/
inductive PretreeItemsRun : State → State → Prop where
  /-- The range is read. -/
  | done (s : State) : s.tmp.last ≤ s.tmp.idx → PretreeItemsRun s s
  /-- One more item. -/
  | item (s t u : State) (i : Instr) : s.tmp.idx < s.tmp.last → ElementRun .pretreeItem s i t → PretreeItemsRun t u →
      PretreeItemsRun s u

/-- ReadLengths(X, first, last) (43_lzx_blocks.md R147): a pretree, then its items over the entries first..last-1. -/
def RangeRead (x : LenArray) (first last : Nat) (s t : State) : Prop :=
  ∃ p u, ElementRun .pretree s (.pretree p) u ∧
    PretreeItemsRun { u with tmp := { u.tmp with array := x, idx := first, last := last } } t

/-- Build(X) that succeeds (42_huffman.md R137). -/
def TreeBuilt (x : Tree) (s t : State) : Prop :=
  ∃ tab, builtFor tab s.params.emptyTreeAccept (treeBits x) (s.treeLengths x) ∧ t = s.setTable x tab

/-- VerbatimTrees() (43_lzx_blocks.md R145): the three ranges in their order, each table built when its lengths are
complete. -/
def VerbatimTreesRead (s t : State) : Prop :=
  ∃ a b c d, RangeRead .main 0 256 s a ∧ RangeRead .main 256 512 a b ∧ TreeBuilt .main b c ∧
    RangeRead .length 0 249 c d ∧ TreeBuilt .length d t

/-- Main-tree elements run one after the other, until the run is used up (44_lzx_decode.md R150). -/
inductive MainItemsRun : State → State → Prop where
  /-- The run is used up. -/
  | done (s : State) : s.tmp.run = 0 → MainItemsRun s s
  /-- One more element. -/
  | item (s t u : State) (i : Instr) : 0 < s.tmp.run → ElementRun .mainItem s i t → MainItemsRun t u →
      MainItemsRun s u

/-- LZX_DECOMPRESS after its operand check, in an open session: the temporaries it starts with (43_lzx_blocks.md
R139). -/
def frameBegun (s : State) (fs bs : Nat) : State :=
  { s with tmp := { opcode := 0x51, chunkStart := s.byteOff, fs := fs, bs := bs, togo := fs } }

/-- A run of the whole frame of `fs` bytes begins (43_lzx_blocks.md R142). -/
def runBegun (s : State) (fs : Nat) : State :=
  { s with
    blockRemaining := BitVec.ofNat 24 (s.blockRemaining.toNat - fs)
    windowPosn := BitVec.ofNat 17 (s.windowPosn.toNat % 65536)
    tmp := { s.tmp with togo := 0, run := fs } }

/-- FRM_RUN begins: the framer's registers are cleared (45_framer.md R166). -/
def framerBegun (s : State) : State :=
  { s with frmConsumed := 0, frmOut := [], tmp := { opcode := 0x60 } }

/-- The chunks of FRM_RUN over a container of `clen` bytes (45_framer.md R166, R168), with the output they give. -/
inductive ChunksRun (clen : Nat) : State → State → List Byte → Prop where
  /-- The container is consumed. -/
  | done (s : State) : clen ≤ s.frmConsumed.toNat → ChunksRun clen s s []
  /-- A header with a size of 0 ends the loop. -/
  | stop (s t : State) (i : Instr) : s.frmConsumed.toNat < clen → ElementRun .chunkHeader s i t →
      t.tmp.fs = 0 ∨ t.tmp.bs = 0 → ChunksRun clen s t []
  /-- A chunk: its header, its output, its bytes counted. -/
  | chunk (s t u v : State) (i : Instr) (out rest : List Byte) : s.frmConsumed.toNat < clen →
      ElementRun .chunkHeader s i t → t.tmp.fs ≠ 0 → t.tmp.bs ≠ 0 → decompress t.tmp.fs t.tmp.bs t = .ok out u →
      ChunksRun clen { u with
        frmOut := u.frmOut ++ out
        frmConsumed := BitVec.ofNat 33 (u.frmConsumed.toNat + t.tmp.bs) } v rest →
      ChunksRun clen s v (out ++ rest)

/-! ## The register map -/

/-- The registers of REG_READ with their values (10_state.md R36). -/
def registerMap (s : State) : List (Nat × Nat) :=
  [(0x00, s.faulted.toNat + 2 ^ 4 * s.faultClass.toNat + 2 ^ 8 * s.faultCause.toNat),
   (0x01, s.byteOffset.toNat), (0x02, s.bitOffset.toNat), (0x03, s.storeLen.toNat),
   (0x10, s.rep0.toNat), (0x11, s.rep1.toNat), (0x12, s.rep2.toNat), (0x13, s.headerRead.toNat),
   (0x14, s.blockType.toNat), (0x15, s.blockRemaining.toNat), (0x16, s.windowPosn.toNat),
   (0x17, s.frmConsumed.toNat), (0x18, s.frmOut.length),
   (0x19, s.pretreeTable.valid.toNat + 2 * s.mainTable.valid.toNat + 4 * s.lengthTable.valid.toNat
     + 8 * s.alignedTable.valid.toNat + 16 * s.hostTable.valid.toNat),
   (0x20, 16), (0x21, if s.params.emptyTreeAccept then 1 else 0),
   (0x22, if s.params.alignedExtra3 = .sourceLiteral then 1 else 0),
   (0x30, s.faultByteOffset.toNat), (0x31, s.faultBitOffset.toNat), (0x32, s.faultOpcode.toNat)]

/-- The pairs of array id and index that ARRAY_READ has no element for (10_state.md R37). -/
abbrev noElement (s : State) (a b : Nat) : Prop :=
  6 < a ∨ a = 0 ∧ 656 ≤ b ∨ a = 1 ∧ 250 ≤ b ∨ a = 2 ∧ 8 ≤ b ∨ a = 3 ∧ 20 ≤ b ∨ a = 4 ∧ 65536 ≤ b ∨
    a = 5 ∧ s.frmOut.length ≤ b ∨ a = 6 ∧ s.hostN.toNat ≤ b

/-- The fault registers of two states agree. -/
def sameFaultRecord (s t : State) : Prop :=
  t.faulted = s.faulted ∧ t.faultClass = s.faultClass ∧ t.faultCause = s.faultCause ∧ t.faultOpcode = s.faultOpcode ∧
    t.faultByteOffset = s.faultByteOffset ∧ t.faultBitOffset = s.faultBitOffset

/-! ## The invariant -/

/-- The fault registers in the two modes: a fault of 60_exceptions.md R174 in FAULTED, all 0 in IDLE (R175, R178;
10_state.md R35). -/
def faultRecord (s : State) : Prop :=
  if s.faulted then ∃ c : Cause, s.faultClass = c.faultClass.code ∧ s.faultCause = c.code
  else s.faultClass = 0 ∧ s.faultCause = 0 ∧ s.faultOpcode = 0 ∧ s.faultByteOffset = 0 ∧ s.faultBitOffset = 0

/-- Every code of a table is that of a symbol below `n`. -/
def symbolsBelow (t : Table) (n : Nat) : Prop :=
  ∀ l ∈ t.leaves, l.sym < n

/-- What every state of a core that has been reset satisfies, whatever it was asked since. -/
structure Invariant (s : State) : Prop where
  /-- STORE is in canonical form, below STORE_LEN (10_state.md R19). -/
  store : s.storeWf
  /-- WINDOW is in canonical form, within its 65536 cells (10 R27). -/
  window : s.windowWf
  /-- WINDOW_POSN is in 0..65536 (10 R28). -/
  posn : s.windowPosn.toNat ≤ windowSize
  /-- MAIN_LEN holds 0..16, and entries 512..655 stay 0 (10 R29). -/
  mainLens : ∀ i : Fin 656, s.mainLen[i].toNat ≤ maxCodeLen ∧ (512 ≤ i.val → s.mainLen[i] = 0)
  /-- LENGTH_LEN holds 0..16, and entry 249 stays 0 (10 R29). -/
  lengthLens : ∀ i : Fin 250, s.lengthLen[i].toNat ≤ maxCodeLen ∧ (249 ≤ i.val → s.lengthLen[i] = 0)
  /-- HOST_N is at most 1024, HOST_TB at most 16 (10 R33). -/
  hostSize : s.hostN.toNat ≤ hostMaxSymbols ∧ s.hostTb.toNat ≤ 16
  /-- HOST_LEN holds 0..16 (10 R33). -/
  hostLens : ∀ i : Fin 1024, s.hostLen[i].toNat ≤ maxCodeLen
  /-- The pretree codes symbols 0..19 (30_encoding.md R77). -/
  pretreeSymbols : symbolsBelow s.pretreeTable 20
  /-- The main tree codes symbols 0..511 (30 R78). -/
  mainSymbols : symbolsBelow s.mainTable 512
  /-- The length tree codes symbols 0..248 (30 R79). -/
  lengthSymbols : symbolsBelow s.lengthTable 249
  /-- The aligned tree codes symbols 0..7 (30 R80). -/
  alignedSymbols : symbolsBelow s.alignedTable 8
  /-- The host's table codes symbols 0 .. HOST_N-1 (42_huffman.md R136). -/
  hostSymbols : symbolsBelow s.hostTable s.hostN.toNat
  /-- The fault registers fit STATUS. -/
  fault : faultRecord s

/-! ## Runs -/

/-- Send one command to a core that has no other command waiting, and take its response (00_scope.md R17). -/
def send (c : Command) (s : State) : Option (State × Response) :=
  match step { s with pending := [c] } with
  | .next t => t.response.map fun r => (t, r)
  | .fault _ => none
  | .refused _ => none

/-- A run: the responses of a list of commands and the state at its end (70_reset_and_hazards.md R193). -/
def run : List Command → State → Option (State × List Response)
  | [], s => some (s, [])
  | c :: cs, s =>
    match send c s with
    | none => none
    | some (t, r) => (run cs t).map fun p => (p.1, r :: p.2)

/-- A run from reset succeeds if every response is `ok` (70_reset_and_hazards.md R193). -/
def succeeds (cs : List Command) : Prop :=
  ∃ t rs, run cs State.reset = some (t, rs) ∧ ∀ r ∈ rs, ∃ v, r = .ok v

end Sys2Proof.Safety
end

