-- ==== Sys2Proof/Certificates/Slice0/Obligations.lean ====
section
/-!
DEFINITION. The statements about the core: one definition for each, over all states and operands that meet its
hypotheses. The terms they use that are not the model's own are in Safety.lean. OBLIGATIONS.json lists them with the
rules they state.
-/

open Sys2Proof Sys2Proof.Machine Sys2Proof.Safety

/-! ## Encoding -/

/-- Codes written out by hand from 30_encoding.md decode to what they stand for: command records of each format (R67,
R68), both chunk headers (R71), the session bit (R73), a block header of type `011` and size 0x000006 (R74), a
pretree item with two fields (R77), the literal 0x48 and the match of main symbol 0x127 with footer 31 and offset bit
1 (R78, R80). -/
def Obligations.WrittenCodesDecode : Prop :=
  decode (.command { opcode := 0x05, a := 7, b := 8, data := [9] }) = .ok .getPos ∧
  decode (.command { opcode := 0x30, a := 4 }) = .ok (.readBits 4) ∧
  decode (.command { opcode := 0x51, a := 6, b := 22 }) = .ok (.lzxDecompress 6 22) ∧
  decode (.command { opcode := 0x70, data := [0x34, 0x12] }) = .ok (.load [0x34, 0x12]) ∧
  decode (.command { opcode := 0x40, a := 2, b := 1, data := [1, 1] }) = .ok (.hufBuild 2 1 [1, 1]) ∧
  decode (.element .chunkHeader [.raw 8 0xFF, .raw 16 0x0006, .raw 16 0x0016]) = .ok (.frmExplicit 6 22) ∧
  decode (.element .chunkHeader [.raw 16 0xFEFF]) = .ok (.frmImplicit 0xFEFF) ∧
  decode (.element .chunkHeader [.raw 16 0xFF00]) = .error .implicitHeaderFF ∧
  decode (.element .transform [.raw 1 1]) = .ok (.transform 1) ∧
  decode (.element .blockHeader [.raw 3 3, .raw 16 0, .raw 8 6]) = .ok (.blockUncompressed 6) ∧
  decode (.element .pretreeItem [.sym .pretree 19, .raw 1 1, .sym .pretree 16]) = .ok (.ptSame 1 16) ∧
  decode (.element (.mainItem false .standard) [.sym .main 0x48]) = .ok (.lit 0x48) ∧
  decode (.element (.mainItem false .standard) [.sym .main 0x127, .sym .length 31, .raw 1 1])
    = .ok (.matchVS4 7 (some 31) 1)

/-- An opcode is illegal exactly if it lies in the ranges of 30_encoding.md R69, and such a command faults
ILLEGAL_OPCODE and changes nothing but the fault record. -/
def Obligations.IllegalOpcodesFault : Prop :=
  ∀ (c : Command) (s : State),
    let n := c.opcode.toNat
    let listed := n = 0 ∨ (0x08 ≤ n ∧ n ≤ 0x0F) ∨ (0x1E ≤ n ∧ n ≤ 0x1F) ∨ (0x23 ≤ n ∧ n ≤ 0x2F) ∨
      (0x34 ≤ n ∧ n ≤ 0x3F) ∨ (0x42 ≤ n ∧ n ≤ 0x4F) ∨ (0x52 ≤ n ∧ n ≤ 0x5F) ∨ (0x61 ≤ n ∧ n ≤ 0x6F) ∨
      (0x71 ≤ n ∧ n ≤ 0x7E) ∨ (0x80 ≤ n ∧ n ≤ 0xFF)
    (listed ↔ decodeCommand c = .illegal c.opcode) ∧
    ((∃ op, decodeCommand c = .illegal op) → listed) ∧
    (s.faulted = false → exec (.illegal c.opcode) s = .next (faulting c.opcode .illegalOpcode s))

/-- Decoding the code of a well-formed instruction gives the instruction back: no operand bit is lost in any command
record or element (30_encoding.md sections 1 to 3; an element's code is its fields, notes/assumptions/11.md). -/
def Obligations.DecodeInvertsEncode : Prop :=
  ∀ i : Instr, i.wellFormed = true → decode (encode i) = .ok i

/-- Whatever the decoder accepts is a well-formed instruction, and two lists of fields never decode to the same
element: the element's own code has these very fields. -/
def Obligations.ElementDeterminesFields : Prop :=
  ∀ (fmt : Format) (fields : List Field) (i : Instr), decode (.element fmt fields) = .ok i →
    i.wellFormed = true ∧ ∃ fmt', encode i = .element fmt' fields

/-- The ROM tables (10_state.md R31): their recurrences, and the values of some slots. -/
def Obligations.RomTables : Prop :=
  extraBits 0 = 0 ∧ extraBits 1 = 0 ∧ positionBase 0 = 0 ∧
  (∀ i < 26, extraBits (2 * i) = extraBits (2 * i + 1)) ∧
  (∀ i < 25, extraBits (2 * (i + 1)) = if i ≠ 0 ∧ extraBits (2 * i) < 17 then extraBits (2 * i) + 1 else extraBits (2 * i)) ∧
  (∀ i < 50, positionBase (i + 1) = positionBase i + 2 ^ extraBits i) ∧
  (List.range 32).map positionBase =
    [0, 1, 2, 3, 4, 6, 8, 12, 16, 24, 32, 48, 64, 96, 128, 192, 256, 384, 512, 768, 1024, 1536, 2048, 3072, 4096, 6144,
      8192, 12288, 16384, 24576, 32768, 49152]

/-- The offsets that the slots 3 to 31 of a Verbatim block code cover 1 to 65533, each by one slot and one value of
its extra bits (30_encoding.md R81). -/
def Obligations.SlotsPartitionOffsets : Prop :=
  (∀ d, 1 ≤ d → d ≤ 65533 → ∃ slot v, (3 ≤ slot ∧ slot < 32) ∧ v < 2 ^ extraBits slot ∧
    d + 2 = positionBase slot + v ∧
    ∀ slot' v', 3 ≤ slot' → slot' < 32 → v' < 2 ^ extraBits slot' → d + 2 = positionBase slot' + v' →
      slot' = slot ∧ v' = v) ∧
  ∀ slot v, 3 ≤ slot → slot < 32 → v < 2 ^ extraBits slot →
    1 ≤ positionBase slot - 2 + v ∧ positionBase slot - 2 + v ≤ 65533

/-! ## The step, reset, faults -/

/-- A step takes the oldest command and runs the instruction its record decodes to; with no command the core waits. The
queue is the model's own (notes/assumptions/5.md). Inside a command, reading an element and running it is the meaning of
the element fetched at the cursors, from the state the fetch has left; a fault of the fetch is taken before any meaning
runs. Running an element outside a command is no action of the core (notes/assumptions/6.md). -/
def Obligations.StepRunsTheDecodedInstruction : Prop :=
  ∀ s : State,
    (∀ c i rest, s.pending = c :: rest → decode (.command c) = .ok i → step s = exec i { s with pending := rest }) ∧
    (s.pending = [] → step s = .next s) ∧
    (s.faulted = false → ∀ k,
      (∀ i t, fetchElement k s = .ok i t → element (runNext k) s = exec i t) ∧
      ∀ c t, fetchElement k s = .error (.raise c) t → element (runNext k) s = .next (faulting t.tmp.opcode c t))

/-- RESET is accepted in every state and sets every piece of state to the reset value of 70_reset_and_hazards.md R187;
State.reset has them too; and no other instruction leaves FAULTED. -/
def Obligations.ResetRestoresTheResetValues : Prop :=
  let atReset (t : State) : Prop :=
    t.storeLen = 0 ∧ t.byteOffset = 0 ∧ t.bitOffset = 0 ∧ t.rep0 = 1 ∧ t.rep1 = 1 ∧ t.rep2 = 1 ∧
    t.headerRead = false ∧ t.blockType = 0 ∧ t.blockRemaining = 0 ∧ (∀ i, t.windowByte i = none) ∧
    t.windowPosn = 0 ∧ (∀ i : Fin 656, t.mainLen[i] = 0) ∧ (∀ i : Fin 250, t.lengthLen[i] = 0) ∧
    (∀ i : Fin 8, t.alignedLen[i] = none) ∧ (∀ i : Fin 20, t.pretreeLen[i] = none) ∧
    t.pretreeTable.valid = false ∧ t.mainTable.valid = false ∧ t.lengthTable.valid = false ∧
    t.alignedTable.valid = false ∧ t.frmConsumed = 0 ∧ t.frmOut = [] ∧ t.hostTable.valid = false ∧ t.hostN = 0 ∧
    t.faulted = false ∧ t.faultClass = 0 ∧ t.faultCause = 0 ∧ t.faultOpcode = 0 ∧ t.faultByteOffset = 0 ∧
    t.faultBitOffset = 0
  atReset State.reset ∧
  (∀ s : State, ∃ t, exec .reset s = .next t ∧ atReset t ∧ t.params = s.params ∧ t.response = some (.ok .empty)) ∧
  ∀ (i : Instr) (s t : State), s.faulted = true → exec i s = .next t → t.faulted = false → i = .reset

/-- In FAULTED only REG_READ, ARRAY_READ and RESET execute (60_exceptions.md R179): every other command is refused and
changes no state, and so is a REG_READ of a reserved number or an ARRAY_READ with an invalid operand; neither
observation faults or changes a register there. -/
def Obligations.FaultedCoreRefuses : Prop :=
  ∀ (c : Command) (s : State), s.faulted = true →
    (c.opcode ≠ 0x06 → c.opcode ≠ 0x07 → c.opcode ≠ 0x7F → exec (decodeCommand c) s = .next (refusing s)) ∧
    (c.opcode = 0x06 ∨ c.opcode = 0x07 →
      exec (decodeCommand c) s = .next (refusing s) ∨ ∃ r, exec (decodeCommand c) s = .next (succeeded r s)) ∧
    (c.opcode = 0x06 → (∀ v, (c.a.toNat, v) ∉ registerMap s) → exec (decodeCommand c) s = .next (refusing s)) ∧
    (c.opcode = 0x07 → noElement s c.a.toNat c.b.toNat →
      exec (decodeCommand c) s = .next (refusing s)) ∧
    (c.opcode = 0x7F → ∃ t, exec (decodeCommand c) s = .next t ∧ t.faulted = false)

/-- FAULTED is sticky (60_exceptions.md R178): only RESET leaves it, the fault registers keep the first fault, and a
run whose state is FAULTED at any point does not succeed, whatever follows. -/
def Obligations.FaultIsSticky : Prop :=
  (∀ (i : Instr) (s t : State), s.faulted = true → i ≠ .reset → exec i s = .next t → sameFaultRecord s t) ∧
  ∀ (cs ds : List Command) (t : State) (rs : List Response),
    run cs State.reset = some (t, rs) → t.faulted = true → ¬succeeds (cs ++ ds)

/-- What a fault records (60_exceptions.md R175), and that nothing else records: a command that was not refused either
faults, with class, cause, its own opcode and the cursors latched, or succeeds and leaves the fault registers. -/
def Obligations.FaultRecordsItsCommand : Prop :=
  ∀ (c : Command) (s t : State), s.faulted = false → exec (decodeCommand c) s = .next t →
    (∃ k : Cause, t.response = some (.fault k) ∧ t.faulted = true ∧ t.faultClass = k.faultClass.code ∧
      t.faultCause = k.code ∧ t.faultOpcode = c.opcode ∧ t.faultByteOffset = t.byteOffset ∧
      t.faultBitOffset = t.bitOffset) ∨
    (∃ r : Result, t.response = some (.ok r) ∧ t.faulted = false ∧ (c.opcode ≠ 0x7F → sameFaultRecord s t))

/-- The class and cause codes of 60_exceptions.md R173 and R174; no cause has one of the classes that are never
raised. -/
def Obligations.FaultCodes : Prop :=
  ([Cause.transformBitSet, .frameSizeRange, .invalidBlockType, .pretreeRunOvershoot, .pretreeBadSameSymbol,
      .badMatchOffset, .unwrittenWindowRead, .matchOverrun, .windowOverrun, .uncompressedOverrun,
      .outputLengthMismatch, .buildOverrun, .buildIncomplete, .decodeUnfilled, .decodeExhausted, .tableNotBuilt,
      .noTerminator, .readPastEnd, .illegalOpcode, .badOperand, .reservedRegister].map fun k =>
    (k.faultClass.code.toNat, k.code.toNat)) =
    [(3, 1), (4, 1), (4, 2), (4, 3), (4, 4), (4, 5), (4, 6), (4, 7), (4, 8), (4, 9), (4, 10), (5, 1), (5, 2), (5, 3),
      (5, 4), (5, 5), (6, 1), (9, 1), (11, 1), (11, 2), (11, 3)] ∧
  ∀ k : Cause, k.faultClass.code.toNat ∈ [3, 4, 5, 6, 9, 11]

/-- Which commands can raise a cause (60_exceptions.md R174): all causes but READ_PAST_END and BAD_OPERAND, over all
states; FRAME_SIZE_RANGE is never raised. -/
def Obligations.CausesComeFromTheirCommands : Prop :=
  ∀ (c : Command) (s t : State) (k : Cause), s.faulted = false → exec (decodeCommand c) s = .next t →
    t.response = some (.fault k) →
    k ≠ .frameSizeRange ∧
    (k ∈ [.transformBitSet, .invalidBlockType, .pretreeRunOvershoot, .pretreeBadSameSymbol,
        .badMatchOffset, .unwrittenWindowRead, .matchOverrun, .windowOverrun, .uncompressedOverrun] →
      c.opcode = 0x51 ∨ c.opcode = 0x60) ∧
    (k = .outputLengthMismatch → c.opcode = 0x60) ∧
    (k = .buildOverrun ∨ k = .buildIncomplete → c.opcode = 0x40 ∨ c.opcode = 0x51 ∨ c.opcode = 0x60) ∧
    (k = .decodeUnfilled ∨ k = .decodeExhausted → c.opcode = 0x41 ∨ c.opcode = 0x51 ∨ c.opcode = 0x60) ∧
    (k = .tableNotBuilt → c.opcode = 0x41) ∧
    (k = .noTerminator → c.opcode = 0x20 ∨ c.opcode = 0x21) ∧
    (k = .illegalOpcode → decodeCommand c = .illegal c.opcode) ∧
    (k = .reservedRegister → c.opcode = 0x06)

/-! ## Invariants and frames of the machine -/

/-- The invariant holds at reset. -/
def Obligations.ResetMeetsTheInvariant : Prop :=
  Invariant State.reset

/-- Every step keeps the invariant: the canonical forms of STORE and WINDOW, WINDOW_POSN in 0..65536, the length
arrays with their entries that are never written, the symbols of the tables, and the fault record. -/
def Obligations.StepKeepsTheInvariant : Prop :=
  ∀ s t : State, Invariant s → step s = .next t → Invariant t

/-- Every command ends (70_reset_and_hazards.md R194): from a state that meets the invariant, a step that takes a
command answers it; the model's own stops (notes/assumptions/12.md) are never met. -/
def Obligations.EveryCommandEnds : Prop :=
  ∀ (s : State) (c : Command) (rest : List Command), Invariant s → s.pending = c :: rest →
    ∃ t, step s = .next t ∧ t.pending = rest ∧ t.response ≠ none

/-- STORE is immutable between LOADs (20_memory.md R63), and the parameters of an instance never change (00_scope.md
R8): every instruction but LOAD and RESET leaves every byte and STORE_LEN. -/
def Obligations.OnlyLoadAndResetChangeTheStore : Prop :=
  ∀ (i : Instr) (s t : State), exec i s = .next t →
    t.params = s.params ∧
    ((∀ data, i ≠ .load data) → i ≠ .reset →
      t.storeLen = s.storeLen ∧ ∀ a, t.storeByte a = s.storeByte a)

/-- The commands of the buffer and HUF_DECODE write the two cursors and no other register or memory (41_buffer.md
sections 2 to 5, 42_huffman.md R133), whatever their outcome; only a fault writes the fault registers. -/
def Obligations.BufferCommandsWriteOnlyCursors : Prop :=
  ∀ (c : Command) (s t : State),
    c.opcode ∈ [0x01, 0x02, 0x03, 0x04, 0x05, 0x06, 0x07, 0x10, 0x11, 0x12, 0x13, 0x14, 0x15, 0x16, 0x17, 0x18, 0x19,
      0x1A, 0x1B, 0x1C, 0x1D, 0x20, 0x21, 0x22, 0x30, 0x31, 0x32, 0x33, 0x41] →
    exec (decodeCommand c) s = .next t →
    t = { s with
      byteOffset := t.byteOffset
      bitOffset := t.bitOffset
      faulted := t.faulted
      faultClass := t.faultClass
      faultCause := t.faultCause
      faultOpcode := t.faultOpcode
      faultByteOffset := t.faultByteOffset
      faultBitOffset := t.faultBitOffset
      response := t.response
      tmp := t.tmp } ∧
    (sameFaultRecord s t ∨ ∃ k, t.response = some (.fault k))

/-- LZX_DECOMPRESS and FRM_RUN leave the host's Huffman table, STORE, and the entries of the length arrays that are
never written (43_lzx_blocks.md R148); LZX_DECOMPRESS leaves the framer's registers; neither touches the fault
registers if it succeeds. -/
def Obligations.EngineCommandsFrame : Prop :=
  ∀ (i : Instr) (s t : State) (a b : U32), i = .lzxDecompress a b ∨ i = .frmRun a b → exec i s = .next t →
    t.hostN = s.hostN ∧ t.hostTb = s.hostTb ∧ t.hostLen = s.hostLen ∧ t.hostTable = s.hostTable ∧
    t.store = s.store ∧ t.storeLen = s.storeLen ∧ t.pending = s.pending ∧
    (∀ j : Fin 656, 512 ≤ j.val → t.mainLen[j] = s.mainLen[j]) ∧ t.lengthLen[249] = s.lengthLen[249] ∧
    (i = .lzxDecompress a b → t.frmConsumed = s.frmConsumed ∧ t.frmOut = s.frmOut) ∧
    (∀ r, t.response = some (.ok r) → s.faulted = false → sameFaultRecord s t)

/-- BYTE_OFFSET stays within STORE in every command but the seeks, SET_BIT_POS, ALIGN and the decoders (10_state.md R21;
notes/assumptions/21.md); no read moves it backwards. ALIGN may pass STORE_LEN, by the one step of two bytes that
41_buffer.md R92 gives it, but only after a seek, a SET_BIT_POS or a byte read inside a begun bit frame: all else keeps
the begun frame within STORE (70_reset_and_hazards.md R197 has a host ALIGN before such a byte read). -/
def Obligations.ReadsStayInTheStore : Prop :=
  ∀ (c : Command) (s t : State), s.byteOffset ≤ s.storeLen → exec (decodeCommand c) s = .next t →
    (c.opcode ∉ [0x01, 0x02, 0x32, 0x33, 0x41, 0x51, 0x60] → t.byteOffset ≤ t.storeLen) ∧
    (c.opcode ∈ [0x03, 0x04, 0x10, 0x11, 0x12, 0x13, 0x14, 0x15, 0x16, 0x17, 0x18, 0x19, 0x1A, 0x1B, 0x1C, 0x1D, 0x20,
      0x21, 0x22, 0x30, 0x31] → s.byteOffset ≤ t.byteOffset) ∧
    (c.opcode = 0x33 → t.byteOffset ≤ t.storeLen ∨ s.bitOff ≠ 0 ∧ t.bitOff = 0 ∧ t.byteOff = s.byteOff + 2) ∧
    (c.opcode ∉ [0x01, 0x02, 0x32, 0x41, 0x51, 0x60] →
      (c.opcode ∈ [0x03, 0x10, 0x11, 0x12, 0x13, 0x14, 0x15, 0x16, 0x17, 0x18, 0x19, 0x1A, 0x1B, 0x1C, 0x1D, 0x20, 0x21,
        0x22] → s.bitOff = 0) →
      cursorsInStore s → cursorsInStore t)

/-! ## The buffer -/

/-- READ_U8, READ_I8 and the 16-bit reads (41_buffer.md R100 to R106): the number in its byte order and signedness, the
byte cursor past it, or READ_PAST_END with nothing moved. BIT_OFFSET and all else stay. -/
def Obligations.SmallIntegerReads : Prop :=
  ∀ s : State, s.faulted = false →
    (if s.byteOff + 1 ≤ s.storeLen.toNat then
      exec .readU8 s = .next (succeeded (.nat (littleEndian s 1)) (skipped s 1)) ∧
      exec .readI8 s = .next (succeeded (.int (signed 8 (littleEndian s 1))) (skipped s 1))
    else
      exec .readU8 s = .next (faulting 0x10 .readPastEnd s) ∧ exec .readI8 s = .next (faulting 0x11 .readPastEnd s)) ∧
    (if s.byteOff + 2 ≤ s.storeLen.toNat then
      exec .readU16LE s = .next (succeeded (.nat (littleEndian s 2)) (skipped s 2)) ∧
      exec .readU16BE s = .next (succeeded (.nat (bigEndian s 2)) (skipped s 2)) ∧
      exec .readI16LE s = .next (succeeded (.int (signed 16 (littleEndian s 2))) (skipped s 2)) ∧
      exec .readI16BE s = .next (succeeded (.int (signed 16 (bigEndian s 2))) (skipped s 2))
    else
      exec .readU16LE s = .next (faulting 0x12 .readPastEnd s) ∧
      exec .readU16BE s = .next (faulting 0x13 .readPastEnd s) ∧
      exec .readI16LE s = .next (faulting 0x14 .readPastEnd s) ∧
      exec .readI16BE s = .next (faulting 0x15 .readPastEnd s))

/-- The 32-bit integer reads and the float reads, whose value is the bit pattern (41_buffer.md R100, R107 to R114). -/
def Obligations.WideReads : Prop :=
  ∀ s : State, s.faulted = false →
    (if s.byteOff + 4 ≤ s.storeLen.toNat then
      exec .readU32LE s = .next (succeeded (.nat (littleEndian s 4)) (skipped s 4)) ∧
      exec .readU32BE s = .next (succeeded (.nat (bigEndian s 4)) (skipped s 4)) ∧
      exec .readI32LE s = .next (succeeded (.int (signed 32 (littleEndian s 4))) (skipped s 4)) ∧
      exec .readI32BE s = .next (succeeded (.int (signed 32 (bigEndian s 4))) (skipped s 4)) ∧
      exec .readF32LE s = .next (succeeded (.nat (littleEndian s 4)) (skipped s 4)) ∧
      exec .readF32BE s = .next (succeeded (.nat (bigEndian s 4)) (skipped s 4))
    else
      exec .readU32LE s = .next (faulting 0x16 .readPastEnd s) ∧
      exec .readU32BE s = .next (faulting 0x17 .readPastEnd s) ∧
      exec .readI32LE s = .next (faulting 0x18 .readPastEnd s) ∧
      exec .readI32BE s = .next (faulting 0x19 .readPastEnd s) ∧
      exec .readF32LE s = .next (faulting 0x1A .readPastEnd s) ∧
      exec .readF32BE s = .next (faulting 0x1B .readPastEnd s)) ∧
    (if s.byteOff + 8 ≤ s.storeLen.toNat then
      exec .readF64LE s = .next (succeeded (.nat (littleEndian s 8)) (skipped s 8)) ∧
      exec .readF64BE s = .next (succeeded (.nat (bigEndian s 8)) (skipped s 8))
    else
      exec .readF64LE s = .next (faulting 0x1C .readPastEnd s) ∧
      exec .readF64BE s = .next (faulting 0x1D .readPastEnd s))

/-- READ_BYTES, PEEK_BYTES and READ_LZX_INT16 (41_buffer.md R94, R98, R99, R117; 20_memory.md R49): the bytes, or
READ_PAST_END with nothing moved; a peek moves nothing at all. -/
def Obligations.RawByteReads : Prop :=
  ∀ (s : State) (n : U32), s.faulted = false →
    (if s.byteOff + n.toNat ≤ s.storeLen.toNat then
      exec (.readBytes n) s = .next (succeeded (.bytes (bytesAhead s n.toNat)) (skipped s n.toNat)) ∧
      exec (.peekBytes n) s = .next (succeeded (.bytes (bytesAhead s n.toNat)) s)
    else
      exec (.readBytes n) s = .next (faulting 0x03 .readPastEnd s) ∧
      exec (.peekBytes n) s = .next (faulting 0x04 .readPastEnd s)) ∧
    (if s.byteOff + 2 ≤ s.storeLen.toNat then
      exec .readLzxInt16 s = .next (succeeded
        (.nat ((s.storeByte s.byteOff).toNat * 2 ^ 8 + (s.storeByte (s.byteOff + 1)).toNat)) (skipped s 2))
    else exec .readLzxInt16 s = .next (faulting 0x22 .readPastEnd s))

/-- READ_7BIT (41_buffer.md R115): 7 bits a byte, the lowest first, up to the first byte without a continuation bit; a
fifth byte with one faults; the bytes read before a fault stay consumed. -/
def Obligations.SevenBitIntegers : Prop :=
  ∀ s : State, s.faulted = false →
    (∀ k, varintAhead s k → exec .read7Bit s = .next (succeeded (.nat (varint s (k + 1))) (skipped s (k + 1)))) ∧
    (continued s 5 → exec .read7Bit s = .next (faulting 0x20 .noTerminator (skipped s 5))) ∧
    (∀ k < 5, continued s k → s.byteOff + k = s.storeLen.toNat →
      exec .read7Bit s = .next (faulting 0x20 .readPastEnd (skipped s k))) ∧
    (s.storeLen.toNat < s.byteOff → exec .read7Bit s = .next (faulting 0x20 .readPastEnd s))

/-- READ_STRING (41_buffer.md R116): a 7-bit length and that many raw bytes; a fault on the bytes leaves the length
consumed; the faults of the length are those of READ_7BIT. -/
def Obligations.LengthPrefixedStrings : Prop :=
  ∀ s : State, s.faulted = false →
    (∀ k, varintAhead s k →
      if s.byteOff + (k + 1) + varint s (k + 1) ≤ s.storeLen.toNat then
        exec .readString s = .next (succeeded (.bytes (bytesAhead (skipped s (k + 1)) (varint s (k + 1))))
          (skipped s (k + 1 + varint s (k + 1))))
      else exec .readString s = .next (faulting 0x21 .readPastEnd (skipped s (k + 1)))) ∧
    (continued s 5 → exec .readString s = .next (faulting 0x21 .noTerminator (skipped s 5))) ∧
    (∀ k < 5, continued s k → s.byteOff + k = s.storeLen.toNat →
      exec .readString s = .next (faulting 0x21 .readPastEnd (skipped s k))) ∧
    (s.storeLen.toNat < s.byteOff → exec .readString s = .next (faulting 0x21 .readPastEnd s))

/-- SEEK_ABS, SEEK_REL and GET_POS (41_buffer.md R95 to R97): any address is legal, a target below 0 is clamped, one of
2^32 or more faults; BIT_OFFSET is kept. -/
def Obligations.SeekCommands : Prop :=
  ∀ (s : State) (a d : U32), s.faulted = false →
    exec (.seekAbs a) s = .next (succeeded .empty { s with byteOffset := a }) ∧
    (let t : Int := s.byteOff + signed 32 d.toNat
     if t < 0 then exec (.seekRel d) s = .next (succeeded .empty { s with byteOffset := 0 })
     else if t < 2 ^ 32 then
       exec (.seekRel d) s = .next (succeeded .empty { s with byteOffset := BitVec.ofNat 32 t.toNat })
     else exec (.seekRel d) s = .next (faulting 0x02 .badOperand s)) ∧
    exec .getPos s = .next (succeeded (.position s.byteOffset.toNat s.bitOffset.toNat) s)

/-- SET_BIT_POS (41_buffer.md R93, R120): the signed position is normalised by whole frames of two bytes, the byte
cursor is clamped at 0, and BIT_OFFSET becomes the position modulo 16 all the same. -/
def Obligations.BitPositionNormalises : Prop :=
  ∀ (s : State) (v : U32), s.faulted = false →
    let z := signed 32 v.toNat
    let t : Int := s.byteOff + 2 * Int.fdiv z 16
    if 2 ^ 32 ≤ t then exec (.setBitPos v) s = .next (faulting 0x32 .badOperand s)
    else exec (.setBitPos v) s = .next (succeeded .empty (positioned s (max t 0).toNat (Int.fmod z 16).toNat))

/-- ALIGN, the command and the stream element (41_buffer.md R89, R92, R121; 30_encoding.md R83): nothing at a frame
boundary, else on to the next frame; it reads no byte. That the element has a meaning by itself, with its fault recorded
under the opcode in the temporaries, is the model's own (notes/assumptions/6.md, 7.md). -/
def Obligations.AlignToFrame : Prop :=
  ∀ s : State, s.faulted = false →
    if s.bitOff = 0 ∨ s.byteOff + 2 < 2 ^ 32 then
      exec .align s = .next (succeeded .empty (aligned s)) ∧ exec .streamAlign s = .next (aligned s)
    else
      exec .align s = .next (faulting 0x33 .badOperand s) ∧
      exec .streamAlign s = .next (faulting s.tmp.opcode .badOperand s)

/-- READ_BITS (41_buffer.md R90, R118; 20_memory.md R50, R51): up to 16 bits, first bit highest, across a frame
boundary if need be; a frame that is not in STORE faults with the cursors where the frame before it left them. -/
def Obligations.BitReads : Prop :=
  ∀ (s : State) (n : U32), s.faulted = false →
    if 16 < n.toNat then exec (.readBits n) s = .next (faulting 0x30 .badOperand s)
    else if framesPresent s n.toNat then
      exec (.readBits n) s = .next (succeeded (.nat (ofBits (streamBits s n.toNat))) (advanced s n.toNat))
    else if s.byteOff + 2 ≤ s.storeLen.toNat then
      exec (.readBits n) s = .next (faulting 0x30 .readPastEnd (positioned s (s.byteOff + 2) 0))
    else exec (.readBits n) s = .next (faulting 0x30 .readPastEnd s)

/-- PEEK_BITS (41_buffer.md R91, R119): up to 32 bits, and no cursor moves, not even on a fault. -/
def Obligations.BitPeeks : Prop :=
  ∀ (s : State) (n : U32), s.faulted = false →
    if 32 < n.toNat then exec (.peekBits n) s = .next (faulting 0x31 .badOperand s)
    else if framesPresent s n.toNat then
      exec (.peekBits n) s = .next (succeeded (.nat (ofBits (streamBits s n.toNat))) s)
    else exec (.peekBits n) s = .next (faulting 0x31 .readPastEnd s)

/-- Two bit reads in a row return the high and the low part of the field that a longer peek shows (20_memory.md R51:
the concatenation of the returned bit patterns is the stream). -/
def Obligations.BitReadsConcatenate : Prop :=
  ∀ (s : State) (n m : U32), s.faulted = false → n.toNat ≤ 16 → m.toNat ≤ 16 →
    framesPresent s (n.toNat + m.toNat) →
    ∃ t u x y, exec (.readBits n) s = .next t ∧ t.response = some (.ok (.nat x)) ∧
      exec (.readBits m) t = .next u ∧ u.response = some (.ok (.nat y)) ∧ y < 2 ^ m.toNat ∧
      exec (.peekBits (n + m)) s = .next (succeeded (.nat (x * 2 ^ m.toNat + y)) s) ∧
      u.byteOffset = (advanced s (n.toNat + m.toNat)).byteOffset ∧
      u.bitOffset = (advanced s (n.toNat + m.toNat)).bitOffset

/-- REG_READ (10_state.md R36, 41_buffer.md R122): the value of every register of the map in every state; a reserved
number faults, or is refused in FAULTED; nothing changes. -/
def Obligations.RegisterReads : Prop :=
  ∀ (s : State) (a : U32),
    (∀ v, (a.toNat, v) ∈ registerMap s → exec (.regRead a) s = .next (succeeded (.nat v) s)) ∧
    ((∀ v, (a.toNat, v) ∉ registerMap s) →
      exec (.regRead a) s = .next (if s.faulted then refusing s else faulting 0x06 .reservedRegister s))

/-- ARRAY_READ (10_state.md R37, 41_buffer.md R123): the element of every array in its index range, `unwritten` where
nothing was written; any other pair faults, or is refused in FAULTED; nothing changes. -/
def Obligations.ArrayReads : Prop :=
  ∀ (s : State) (a b : U32),
    (∀ h : b.toNat < 656, exec (.arrayRead 0 b) s = .next (succeeded (.nat s.mainLen[b.toNat].toNat) s)) ∧
    (∀ h : b.toNat < 250, exec (.arrayRead 1 b) s = .next (succeeded (.nat s.lengthLen[b.toNat].toNat) s)) ∧
    (∀ h : b.toNat < 8, exec (.arrayRead 2 b) s = .next (succeeded
      (match s.alignedLen[b.toNat] with | none => .unwritten | some l => .nat l.toNat) s)) ∧
    (∀ h : b.toNat < 20, exec (.arrayRead 3 b) s = .next (succeeded
      (match s.pretreeLen[b.toNat] with | none => .unwritten | some l => .nat l.toNat) s)) ∧
    (b.toNat < 65536 → exec (.arrayRead 4 b) s = .next (succeeded
      (match s.windowByte b.toNat with | none => .unwritten | some x => .nat x.toNat) s)) ∧
    (∀ h : b.toNat < s.frmOut.length, exec (.arrayRead 5 b) s = .next (succeeded (.nat s.frmOut[b.toNat].toNat) s)) ∧
    (∀ h : b.toNat < 1024, b.toNat < s.hostN.toNat →
      exec (.arrayRead 6 b) s = .next (succeeded (.nat s.hostLen[b.toNat].toNat) s)) ∧
    (noElement s a.toNat b.toNat →
      exec (.arrayRead a b) s = .next (if s.faulted then refusing s else faulting 0x07 .badOperand s))

/-- LOAD (70_reset_and_hazards.md R190): STORE holds the bytes, its length is theirs, both cursors are 0, and no other
state changes, the engine's in particular; 2^32 bytes or more fault. -/
def Obligations.LoadReplacesTheStore : Prop :=
  ∀ (s : State) (data : List Byte), s.faulted = false →
    if data.length < 2 ^ 32 then
      ∃ t, exec (.load data) s = .next (succeeded .empty t) ∧ t.storeLen.toNat = data.length ∧
        (∀ i (h : i < data.length), t.storeByte i = data[i]) ∧ t.storeWf ∧
        t = { s with store := t.store, storeLen := t.storeLen, byteOffset := 0, bitOffset := 0 }
    else exec (.load data) s = .next (faulting 0x70 .badOperand s)

/-! ## The Huffman unit -/

/-- HUF_BUILD (42_huffman.md R127, R135): the operands are checked first; then the lengths are kept and the table is
VALID exactly if the Kraft sums let the build succeed. -/
def Obligations.HufBuildOutcome : Prop :=
  ∀ (s : State) (n tb : U32) (data : List Byte), s.faulted = false →
    if (1 ≤ n.toNat ∧ n.toNat ≤ 1024) ∧ (1 ≤ tb.toNat ∧ tb.toNat ≤ 16) ∧ data.length = n.toNat ∧
        ∀ l ∈ data, l.toNat ≤ 16 then
      ∃ t : State, t = { s with hostN := t.hostN, hostTb := t.hostTb, hostLen := t.hostLen, hostTable := t.hostTable } ∧
        t.hostN.toNat = n.toNat ∧ t.hostTb.toNat = tb.toNat ∧
        (∀ i : Fin 1024, t.hostLen[i].toNat = if h : i.val < data.length then data[i.val].toNat
          else s.hostLen[i].toNat) ∧
        match buildOutcome s.params.emptyTreeAccept tb.toNat (data.map (·.toNat)) with
        | none => builtFor t.hostTable s.params.emptyTreeAccept tb.toNat (data.map (·.toNat)) ∧
            exec (.hufBuild n tb data) s = .next (succeeded .empty t)
        | some k => t.hostTable.valid = false ∧ exec (.hufBuild n tb data) s = .next (faulting 0x40 k t)
    else exec (.hufBuild n tb data) s = .next (faulting 0x40 .badOperand s)

/-- The canonical code (42_huffman.md R129): the first symbol in the order of (length, symbol) has the code of zeros,
and each next one has (previous code + 1) shifted left by the growth of the length. -/
def Obligations.CanonicalCodesCount : Prop :=
  ∀ lens : List Nat, codeLengths lens →
    let before (a b : Nat) : Prop :=
      lens.getD a 0 < lens.getD b 0 ∨ lens.getD a 0 = lens.getD b 0 ∧ a < b
    (∀ a, lens.getD a 0 ≠ 0 → (∀ c, lens.getD c 0 ≠ 0 → ¬before c a) → canonicalCode lens a = 0) ∧
    ∀ a b, lens.getD a 0 ≠ 0 → lens.getD b 0 ≠ 0 → before a b →
      (∀ c, lens.getD c 0 ≠ 0 → ¬(before a c ∧ before c b)) →
      canonicalCode lens b = (canonicalCode lens a + 1) * 2 ^ (lens.getD b 0 - lens.getD a 0)

/-- HUF_DECODE through the table of a complete code (42_huffman.md R129, R130, R132, R133): a symbol whose canonical
code stands at the cursors is returned, and exactly its length is passed, as far as the peek of `tb` bits, or of 32
for a longer code, finds its frames in STORE. -/
def Obligations.HufDecodeFindsTheCode : Prop :=
  ∀ (s : State) (sym : Nat), s.faulted = false → 1 ≤ s.hostTb.toNat → s.hostTb.toNat ≤ 16 →
    builtFor s.hostTable s.params.emptyTreeAccept s.hostTb.toNat s.hostLengths → codeLengths s.hostLengths →
    kraft 16 s.hostLengths = 65536 →
    let len := s.hostLengths.getD sym 0
    len ≠ 0 → streamBits s len = bitsOf len (canonicalCode s.hostLengths sym) →
    framesPresent s (if len ≤ s.hostTb.toNat then s.hostTb.toNat else 32) →
    exec .hufDecode s = .next (succeeded (.nat sym) (advanced s len))

/-- In a table built with some length not 0, a decode never meets an unfilled entry and never runs out of bits
(42_huffman.md R134): it returns a symbol that has a length and passes that length, or a frame of its peeks is not in
STORE. -/
def Obligations.HufDecodeIsTotal : Prop :=
  ∀ (s t u : State) (n tb : U32) (data : List Byte), s.faulted = false →
    exec (.hufBuild n tb data) s = .next t → t.response = some (.ok .empty) → (∃ l ∈ data, l ≠ 0) →
    u.faulted = false → u.hostN = t.hostN → u.hostTb = t.hostTb → u.hostLen = t.hostLen → u.hostTable = t.hostTable →
    (∃ sym, sym < n.toNat ∧ (data.map (·.toNat)).getD sym 0 ≠ 0 ∧
      exec .hufDecode u = .next (succeeded (.nat sym) (advanced u ((data.map (·.toNat)).getD sym 0)))) ∨
    (¬framesPresent u 32 ∧ exec .hufDecode u = .next (faulting 0x41 .readPastEnd u))

/-- The faults of HUF_DECODE (42_huffman.md R132, R133, R136; 70_reset_and_hazards.md R195), in their order: a table that
is not VALID; `tb` bits that are not in STORE; the empty table that EMPTY_TREE_ACCEPT admits; 32 bits that are not in
STORE when the `tb` bits begin a longer code, however few bits that code has. The cursors stay. -/
def Obligations.HufDecodeFaults : Prop :=
  ∀ s : State, s.faulted = false →
    (s.hostTable.valid = false → exec .hufDecode s = .next (faulting 0x41 .tableNotBuilt s)) ∧
    (s.hostTable.valid = true → ¬framesPresent s s.hostTb.toNat →
      exec .hufDecode s = .next (faulting 0x41 .readPastEnd s)) ∧
    (s.hostTable.valid = true → framesPresent s s.hostTb.toNat → (∀ l ∈ s.hostLengths, l = 0) →
      builtFor s.hostTable true s.hostTb.toNat s.hostLengths → 1 ≤ s.hostTb.toNat → s.hostTb.toNat ≤ 16 →
      exec .hufDecode s = .next (faulting 0x41 .decodeUnfilled s)) ∧
    ∀ sym, 1 ≤ s.hostTb.toNat → s.hostTb.toNat ≤ 16 →
      builtFor s.hostTable s.params.emptyTreeAccept s.hostTb.toNat s.hostLengths → codeLengths s.hostLengths →
      kraft 16 s.hostLengths = 65536 →
      let len := s.hostLengths.getD sym 0
      s.hostTb.toNat < len → framesPresent s s.hostTb.toNat → ¬framesPresent s 32 →
      streamBits s s.hostTb.toNat = (bitsOf len (canonicalCode s.hostLengths sym)).take s.hostTb.toNat →
      exec .hufDecode s = .next (faulting 0x41 .readPastEnd s)

/-- More symbols of length 0 give the same build outcome and the same decodes (42_huffman.md R131). -/
def Obligations.ZeroLengthsDoNotMatter : Prop :=
  ∀ (accept : Bool) (tb : Nat) (lens : List Nat) (k : Nat),
    let padded := lens ++ List.replicate k 0
    buildTable accept tb padded = buildTable accept tb lens ∧
    ∀ leaves s, buildTable accept tb lens = .ok leaves →
      decodeSym leaves (fun sym => padded.getD sym 0) tb s = decodeSym leaves (fun sym => lens.getD sym 0) tb s

/-! ## The elements of the bitstream -/

/-- LZX_RESET (43_lzx_blocks.md R138, 70_reset_and_hazards.md R189): the engine's state takes its reset values; STORE,
the cursors, the framer, the host's table, STATUS and the fault registers stay. -/
def Obligations.EngineResetStartsASession : Prop :=
  ∀ s : State, s.faulted = false → ∃ t, exec .lzxReset s = .next (succeeded .empty t) ∧
    t = { s with
      rep0 := 1, rep1 := 1, rep2 := 1, headerRead := false, blockType := 0, blockRemaining := 0, windowPosn := 0
      window := t.window, mainLen := t.mainLen, lengthLen := t.lengthLen, alignedLen := t.alignedLen
      pretreeLen := t.pretreeLen, pretreeTable := t.pretreeTable, mainTable := t.mainTable
      lengthTable := t.lengthTable, alignedTable := t.alignedTable } ∧
    (∀ i, t.windowByte i = none) ∧ (∀ i : Fin 656, t.mainLen[i] = 0) ∧ (∀ i : Fin 250, t.lengthLen[i] = 0) ∧
    (∀ i : Fin 8, t.alignedLen[i] = none) ∧ (∀ i : Fin 20, t.pretreeLen[i] = none) ∧
    t.pretreeTable.valid = false ∧ t.mainTable.valid = false ∧ t.lengthTable.valid = false ∧
    t.alignedTable.valid = false

/-- The header elements run (45_framer.md R166, 43_lzx_blocks.md R140, R141, R146): chunk headers give the sizes and are
counted, the session bit opens the session or faults, a block header is latched before an invalid type faults, and the
repeated offsets of an Uncompressed block are taken unchecked. That an element has a meaning by itself, and its
temporaries, are the model's own (notes/assumptions/6.md, 7.md), here and in the statements below. -/
def Obligations.HeaderElements : Prop :=
  ∀ s : State, s.faulted = false →
    (∀ fs bs : BitVec 16, exec (.frmExplicit fs bs) s = .next { s with
      frmConsumed := s.frmConsumed + 5, tmp := { s.tmp with fs := fs.toNat, bs := bs.toNat } }) ∧
    (∀ bs : BitVec 16, exec (.frmImplicit bs) s = .next { s with
      frmConsumed := s.frmConsumed + 2, tmp := { s.tmp with fs := 0x8000, bs := bs.toNat } }) ∧
    exec (.transform 0) s = .next { s with headerRead := true } ∧
    exec (.transform 1) s = .next (faulting s.tmp.opcode .transformBitSet s) ∧
    (∀ size : BitVec 24,
      exec (.blockVerbatim size) s = .next { s with blockType := 1, blockRemaining := size } ∧
      exec (.blockAligned size) s = .next { s with blockType := 2, blockRemaining := size } ∧
      exec (.blockUncompressed size) s = .next { s with blockType := 3, blockRemaining := size } ∧
      exec (.blockInvalid0 size) s
        = .next (faulting s.tmp.opcode .invalidBlockType { s with blockType := 0, blockRemaining := size }) ∧
      ∀ t : BitVec 2, exec (.blockInvalid4to7 t size) s
        = .next (faulting s.tmp.opcode .invalidBlockType
            { s with blockType := BitVec.ofNat 3 (4 + t.toNat), blockRemaining := size })) ∧
    ∀ r0 r1 r2 : U32, exec (.uncompReps r0 r1 r2) s = .next { s with rep0 := r0, rep1 := r1, rep2 := r2 }

/-- The header and tree elements as they stand in the stream (30_encoding.md R71, R73 to R75, R77, R82, R84; 43_lzx_blocks.md
R144, R147): which bytes and bits they are, how far the cursors move, and that BLOCK_TYPE, the raw lengths and the
repeated offsets are latched as they are read, so that a missing frame leaves the lengths before it written
(60_exceptions.md R177; notes/assumptions/15.md). A pretree item stands there by its canonical codes; PT.SAME past the end
of its range faults before its second symbol is read. -/
def Obligations.HeaderElementsFetched : Prop :=
  ∀ s : State,
    (framesPresent s 1 → fetchElement .transform s
      = .ok (.transform (BitVec.ofBool (streamBit s 0))) (advanced s 1)) ∧
    (framesPresent s 27 →
      let type := ofBits (streamBits s 3)
      let size := BitVec.ofNat 24 (ofBits ((streamBits s 27).drop 3))
      let t := { advanced s 27 with blockType := BitVec.ofNat 3 type }
      fetchElement .blockHeader s = .ok
        (if type = 0 then .blockInvalid0 size else if type = 1 then .blockVerbatim size
         else if type = 2 then .blockAligned size else if type = 3 then .blockUncompressed size
         else .blockInvalid4to7 (BitVec.ofNat 2 (type - 4)) size) t) ∧
    (s.byteOff + 5 ≤ s.storeLen.toNat → s.storeByte s.byteOff = 0xFF →
      fetchElement .chunkHeader s = .ok (.frmExplicit
        (s.storeByte (s.byteOff + 1) ++ s.storeByte (s.byteOff + 2))
        (s.storeByte (s.byteOff + 3) ++ s.storeByte (s.byteOff + 4))) (skipped s 5)) ∧
    (s.byteOff + 2 ≤ s.storeLen.toNat → s.storeByte s.byteOff ≠ 0xFF →
      fetchElement .chunkHeader s = .ok (.frmImplicit
        (s.storeByte s.byteOff ++ s.storeByte (s.byteOff + 1))) (skipped s 2)) ∧
    (s.byteOff + 12 ≤ s.storeLen.toNat →
      let r (k : Nat) : U32 := BitVec.ofNat 32 (littleEndian (skipped s (4 * k)) 4)
      fetchElement .uncompReps s
        = .ok (.uncompReps (r 0) (r 1) (r 2)) { skipped s 12 with rep0 := r 0, rep1 := r 1, rep2 := r 2 }) ∧
    (framesPresent s 24 →
      let a : Vector (BitVec 3) 8 := .ofFn fun k => BitVec.ofNat 3 (rawField s 3 k)
      fetchElement .alignedLengths s = .ok (.alignedLengths a) { advanced s 24 with alignedLen := a.map some }) ∧
    (framesPresent s 80 →
      let p : Vector (BitVec 4) 20 := .ofFn fun k => BitVec.ofNat 4 (rawField s 4 k)
      fetchElement .pretree s = .ok (.pretree p) { advanced s 80 with pretreeLen := p.map some }) ∧
    (∀ k < 8, framesPresent s (3 * k) → ¬framesPresent s (3 * (k + 1)) →
      fetchElement .alignedLengths s = .error (.raise .readPastEnd) { pastFrames (advanced s (3 * k)) with
        alignedLen := .ofFn fun j => if j < k then some (BitVec.ofNat 3 (rawField s 3 j)) else s.alignedLen[j] }) ∧
    (∀ k < 20, framesPresent s (4 * k) → ¬framesPresent s (4 * (k + 1)) →
      fetchElement .pretree s = .error (.raise .readPastEnd) { pastFrames (advanced s (4 * k)) with
        pretreeLen := .ofFn fun j => if j < k then some (BitVec.ofNat 4 (rawField s 4 j)) else s.pretreeLen[j] }) ∧
    (∀ fields i, decode (.element .pretreeItem fields) = .ok i → fieldsAhead s fields →
      (∀ z s2, i = .ptSame z s2 → s.tmp.idx + (z.toNat + 4) ≤ s.tmp.last) →
      fetchElement .pretreeItem s = .ok i (advanced s (fieldsBits s fields).length)) ∧
    ∀ z : BitVec 1, let fields := [.sym .pretree 19, .raw 1 z.toNat]
      fieldsAhead s fields → s.tmp.last < s.tmp.idx + (z.toNat + 4) →
      fetchElement .pretreeItem s
        = .error (.raise .pretreeRunOvershoot) (advanced s (fieldsBits s fields).length)

/-- The tree definitions run (43_lzx_blocks.md R144, R147; 42_huffman.md R127, R137): the raw lengths are kept, and the
table is VALID exactly if the Kraft sums let the build succeed; else the build's fault is taken. -/
def Obligations.TreeDefinitions : Prop :=
  ∀ s : State, s.faulted = false →
    (∀ a : Vector (BitVec 3) 8, ∃ tab : Table,
      let t := { s with alignedLen := a.map some, alignedTable := tab }
      match buildOutcome s.params.emptyTreeAccept 7 (a.toList.map (·.toNat)) with
      | none => builtFor tab s.params.emptyTreeAccept 7 (a.toList.map (·.toNat)) ∧ exec (.alignedLengths a) s = .next t
      | some k => tab.valid = false ∧ exec (.alignedLengths a) s = .next (faulting s.tmp.opcode k t)) ∧
    ∀ p : Vector (BitVec 4) 20, ∃ tab : Table,
      let t := { s with pretreeLen := p.map some, pretreeTable := tab }
      match buildOutcome s.params.emptyTreeAccept 6 (p.toList.map (·.toNat)) with
      | none => builtFor tab s.params.emptyTreeAccept 6 (p.toList.map (·.toNat)) ∧ exec (.pretree p) s = .next t
      | some k => tab.valid = false ∧ exec (.pretree p) s = .next (faulting s.tmp.opcode k t)

/-- The pretree items run (43_lzx_blocks.md R147, R148) while entries of their range are left: a delta, a run of zeros,
a run of one delta; no other entry changes. A run past the end of the range faults before anything is written, and
before the second symbol of PT.SAME is looked at. -/
def Obligations.PretreeItems : Prop :=
  ∀ s : State, s.faulted = false → s.tmp.idx < s.tmp.last →
    s.tmp.last ≤ (match s.tmp.array with | .main => 512 | .length => 249) →
    let left := s.tmp.last - s.tmp.idx
    (∀ d : BitVec 5, d.toNat ≤ 16 →
      ∃ t, exec (.ptDelta d) s = .next t ∧ RunWritten s t 1 (deltaOf s d.toNat)) ∧
    (∀ z : BitVec 4, if z.toNat + 4 ≤ left then ∃ t, exec (.ptZ4 z) s = .next t ∧ RunWritten s t (z.toNat + 4) 0
      else exec (.ptZ4 z) s = .next (faulting s.tmp.opcode .pretreeRunOvershoot s)) ∧
    (∀ z : BitVec 5, if z.toNat + 20 ≤ left then ∃ t, exec (.ptZ20 z) s = .next t ∧ RunWritten s t (z.toNat + 20) 0
      else exec (.ptZ20 z) s = .next (faulting s.tmp.opcode .pretreeRunOvershoot s)) ∧
    ∀ (z : BitVec 1) (s2 : BitVec 5),
      if left < z.toNat + 4 then exec (.ptSame z s2) s = .next (faulting s.tmp.opcode .pretreeRunOvershoot s)
      else if 16 < s2.toNat then exec (.ptSame z s2) s = .next (faulting s.tmp.opcode .pretreeBadSameSymbol s)
      else ∃ t, exec (.ptSame z s2) s = .next t ∧ RunWritten s t (z.toNat + 4) (deltaOf s s2.toNat)

/-- A main-tree element as it stands in the stream (30_encoding.md R78 to R80, R84, R86): if the bits of its fields come
next, each symbol in the canonical code of its tree, the fetch gives this very element and moves the cursors past
exactly those bits. -/
def Obligations.MainElementsFetched : Prop :=
  ∀ (s : State) (fields : List Field) (i : Instr),
    decode (.element (.mainItem (s.blockType == 2) s.params.alignedExtra3) fields) = .ok i →
    fieldsAhead s fields →
    fetchElement .mainItem s = .ok i (advanced s (fieldsBits s fields).length)

/-- LIT (44_lzx_decode.md R150, R152) and the two match fields (R153, R159): a literal takes one window cell and one byte
of the run; no other cell changes. LENFOOT gives the length of a match, ALIGNSYM the low part of its offset; that these
two have a meaning by themselves, which the match they belong to completes, and that length, offset and run stand in the
temporaries, is the model's own (notes/assumptions/6.md, 7.md). -/
def Obligations.LiteralsAndMatchFields : Prop :=
  ∀ s : State, s.faulted = false →
    (∀ c : Byte, 0 < s.tmp.run → s.windowPosn.toNat < 65536 →
      ∃ w, writtenWindow s s.windowPosn.toNat [c] w ∧
        exec (.lit c) s = .next { s with
          window := w
          windowPosn := s.windowPosn + 1
          tmp := { s.tmp with run := s.tmp.run - 1 } }) ∧
    (∀ f : BitVec 8, exec (.lenFoot f) s = .next { s with tmp := { s.tmp with matchLen := 9 + f.toNat } }) ∧
    ∀ a : BitVec 3, exec (.alignSym a) s = .next { s with tmp := { s.tmp with matchOff := s.tmp.matchOff + a.toNat } }

/-- MATCH.S0 to MATCH.S3 and MATCH.V.S4 to MATCH.V.S31, the matches of a Verbatim block (44_lzx_decode.md R150, R153 to
R158, R162): the length, the offset from the cache or from its slot, the cache, then the copy; no other window cell and
no other register changes. `matchForm` gives each its length and offset. -/
def Obligations.VerbatimMatchesCopy : Prop :=
  ∀ (i : Instr) (len : Nat) (src : OffsetSource) (s : State), i.wellFormed = true → matchForm i = some (len, src) →
    (∀ h fields, encode i ≠ .element (.mainItem true h) fields) → s.faulted = false →
    CopyReady s len (offsetOf s src) →
    ∃ w, copiedWindow s len (offsetOf s src) w ∧ exec i s = .next (copied (cacheAfter s len src) len w)

/-- MATCH.A.S4 to MATCH.A.S31, the matches of an Aligned block whose offset has extra bits (44_lzx_decode.md R159), in
both modes of ALIGNED_EXTRA3_MODE: as the matches of a Verbatim block, with the aligned symbol in the low bits of the
offset. -/
def Obligations.AlignedMatchesCopy : Prop :=
  ∀ (i : Instr) (len : Nat) (src : OffsetSource) (s : State), i.wellFormed = true → matchForm i = some (len, src) →
    (∃ h fields, encode i = .element (.mainItem true h) fields) → s.faulted = false →
    CopyReady s len (offsetOf s src) →
    ∃ w, copiedWindow s len (offsetOf s src) w ∧ exec i s = .next (copied (cacheAfter s len src) len w)

/-- The faults of every match, in their order (44_lzx_decode.md R150, R160 to R162): a bad offset, then a length past the
run, each after the update of the cache and before any copy; then the first unwritten source cell, after the bytes
before it. -/
def Obligations.MatchFaults : Prop :=
  ∀ (i : Instr) (len : Nat) (src : OffsetSource) (s : State), i.wellFormed = true → matchForm i = some (len, src) →
    s.faulted = false →
    let off := offsetOf s src
    let t := cacheAfter s len src
    (off = 0 ∨ 65536 < off → exec i s = .next (faulting s.tmp.opcode .badMatchOffset t)) ∧
    (1 ≤ off → off ≤ 65536 → s.tmp.run < len → exec i s = .next (faulting s.tmp.opcode .matchOverrun t)) ∧
    ∀ k, 1 ≤ off → off ≤ 65536 → len ≤ s.tmp.run → s.windowPosn.toNat + len ≤ 65536 → k < len → k < off →
      (∀ j < k, s.windowByte (sourceCell (s.windowPosn.toNat + j) off) ≠ none) →
      s.windowByte (sourceCell (s.windowPosn.toNat + k) off) = none →
      ∃ w, copiedWindow s k off w ∧
        exec i s = .next (faulting s.tmp.opcode .unwrittenWindowRead { t with window := w })

/-- UNCOMP.BYTES (44_lzx_decode.md R163): the bytes of the run go to the window, bounded by the chunk and by STORE; no
other cell changes. -/
def Obligations.UncompressedRuns : Prop :=
  ∀ s : State, s.faulted = false → s.windowPosn.toNat + s.tmp.run ≤ 65536 →
    if s.tmp.chunkStart + s.tmp.bs < s.byteOff + s.tmp.run then
      exec .uncompBytes s = .next (faulting s.tmp.opcode .uncompressedOverrun s)
    else if s.storeLen.toNat < s.byteOff + s.tmp.run then
      exec .uncompBytes s = .next (faulting s.tmp.opcode .readPastEnd s)
    else
      ∃ w, writtenWindow s s.windowPosn.toNat (bytesAhead s s.tmp.run) w ∧
        exec .uncompBytes s = .next { skipped s s.tmp.run with
          window := w
          windowPosn := BitVec.ofNat 17 (s.windowPosn.toNat + s.tmp.run)
          tmp := { s.tmp with run := 0 } }

/-- BlockHeader() (43_lzx_blocks.md R141, R144 to R147): after a header of type `001` come three ranges of lengths, the
entries 0..255 and 256..511 of MAIN_LEN and 0..248 of LENGTH_LEN, each with its own pretree; MAIN_TABLE is built after the
second and LENGTH_TABLE after the third; type `010` has the aligned tree before them; type `011` aligns and takes three
offsets. The header ends well in just the states that this order of its elements leads to. -/
def Obligations.BlockHeadersReadTheirTrees : Prop :=
  ∀ (s t u : State) (size : BitVec 24), s.faulted = false →
    (ElementRun .blockHeader s (.blockVerbatim size) u → (readBlockHeader s = .ok () t ↔ VerbatimTreesRead u t)) ∧
    (ElementRun .blockHeader s (.blockAligned size) u →
      (readBlockHeader s = .ok () t ↔
        ∃ a v, ElementRun .alignedLengths u (.alignedLengths a) v ∧ VerbatimTreesRead v t)) ∧
    (ElementRun .blockHeader s (.blockUncompressed size) u →
      (readBlockHeader s = .ok () t ↔
        ∃ v r0 r1 r2, ElementRun .align u .streamAlign v ∧ ElementRun .uncompReps v (.uncompReps r0 r1 r2) t))

/-! ## The engine's commands -/

/-- LZX_DECOMPRESS inside an Uncompressed block (43_lzx_blocks.md R139, R142; 44_lzx_decode.md R163, R164): the frame is
the next `fs` bytes of STORE, they go to the window, and block, window position and byte cursor move by `fs`; a frame of
0 bytes only aligns. -/
def Obligations.DecompressCopiesUncompressedFrame : Prop :=
  ∀ (s : State) (fs bs : U32), s.faulted = false → s.headerRead = true → fs.toNat ≤ 65536 → bs.toNat ≤ 65536 →
    (fs = 0 → s.bitOff = 0 ∨ s.byteOff + 2 < 2 ^ 32 →
      exec (.lzxDecompress fs bs) s = .next (succeeded (.bytes []) (aligned s))) ∧
    (0 < fs.toNat → s.blockType = 3 → fs.toNat ≤ s.blockRemaining.toNat → s.bitOff = 0 → fs.toNat ≤ bs.toNat →
      s.byteOff + fs.toNat ≤ s.storeLen.toNat → s.windowPosn.toNat % 65536 + fs.toNat ≤ 65536 →
      ∃ w, writtenWindow s (s.windowPosn.toNat % 65536) (bytesAhead s fs.toNat) w ∧
        exec (.lzxDecompress fs bs) s = .next (succeeded (.bytes (bytesAhead s fs.toNat)) { skipped s fs.toNat with
          blockRemaining := BitVec.ofNat 24 (s.blockRemaining.toNat - fs.toNat)
          window := w
          windowPosn := BitVec.ofNat 17 (s.windowPosn.toNat % 65536 + fs.toNat) }))

/-- LZX_DECOMPRESS inside a compressed block over literals alone (43_lzx_blocks.md R139, R142; 44_lzx_decode.md R150 to
R152): if the codes of `fs` literals come next in the stream, the frame is those literals; the cursors end at the frame
boundary after the codes, and the repeated offsets stay. -/
def Obligations.DecompressDecodesLiterals : Prop :=
  ∀ (s : State) (fs bs : U32) (lits : List Byte), s.faulted = false → s.headerRead = true →
    s.blockType = 1 ∨ s.blockType = 2 → 0 < lits.length → fs.toNat = lits.length → fs.toNat ≤ 65536 →
    bs.toNat ≤ 65536 → fs.toNat ≤ s.blockRemaining.toNat → s.windowPosn.toNat % 65536 + fs.toNat ≤ 65536 →
    fieldsAhead s (lits.map fun c => Field.sym .main c.toNat) →
    let n := (fieldsBits s (lits.map fun c => Field.sym .main c.toNat)).length
    ∃ w, writtenWindow s (s.windowPosn.toNat % 65536) lits w ∧
      exec (.lzxDecompress fs bs) s = .next (succeeded (.bytes lits) { aligned (advanced s n) with
        blockRemaining := BitVec.ofNat 24 (s.blockRemaining.toNat - fs.toNat)
        window := w
        windowPosn := BitVec.ofNat 17 (s.windowPosn.toNat % 65536 + fs.toNat) })

/-- LZX_DECOMPRESS inside a compressed block over any elements (43_lzx_blocks.md R139, R142; 44_lzx_decode.md R150, R164),
in a block that goes on or in one whose header comes next: if the elements at the cursors, literals and matches, each run
by its meaning, use up the run, the command ends in the state they leave, aligned, and answers the window cells they have
filled. -/
def Obligations.DecompressRunsItsElements : Prop :=
  ∀ (s h t : State) (fs bs : U32), s.faulted = false → s.headerRead = true → 0 < fs.toNat → fs.toNat ≤ 65536 →
    bs.toNat ≤ 65536 → h.blockType = 1 ∨ h.blockType = 2 →
    (if s.blockRemaining = 0 then readBlockHeader (frameBegun s fs.toNat bs.toNat) = .ok () h
      else h = frameBegun s fs.toNat bs.toNat) →
    fs.toNat ≤ h.blockRemaining.toNat → h.windowPosn.toNat % 65536 + fs.toNat ≤ 65536 →
    MainItemsRun (runBegun h fs.toNat) t → t.bitOff = 0 ∨ t.byteOff + 2 < 2 ^ 32 →
    ∃ out, out.length = fs.toNat ∧
      (∀ i (hi : i < out.length), t.windowByte (h.windowPosn.toNat % 65536 + i) = some out[i]) ∧
      exec (.lzxDecompress fs bs) s = .next (succeeded (.bytes out) (aligned t))

/-- The result of LZX_DECOMPRESS (44_lzx_decode.md R164): the `fs` bytes of the window that end at WINDOW_POSN, where 0
stands for 65536. -/
def Obligations.DecompressReturnsTheWindowSlice : Prop :=
  ∀ (s t : State) (fs bs : U32) (r : Result), s.faulted = false → exec (.lzxDecompress fs bs) s = .next t →
    t.response = some (.ok r) →
    ∃ out, r = .bytes out ∧ out.length = fs.toNat ∧
      ∀ i (h : i < out.length), t.windowByte
        (((if t.windowPosn = 0 then 65536 else t.windowPosn.toNat) + 65536 - fs.toNat + i) % 65536) = some out[i]

/-- The faults LZX_DECOMPRESS takes before it decodes anything (43_lzx_blocks.md R139 to R142, 44_lzx_decode.md R163):
its operands; the transform bit; a block type that is none; a run that would cross the end of the window, or that
passes the chunk's bound in an Uncompressed block, after the run was taken off the block. -/
def Obligations.DecompressHeaderFaults : Prop :=
  ∀ (s : State) (fs bs : U32), s.faulted = false →
    (65536 < fs.toNat ∨ 65536 < bs.toNat → exec (.lzxDecompress fs bs) s = .next (faulting 0x51 .badOperand s)) ∧
    (fs.toNat ≤ 65536 → bs.toNat ≤ 65536 → s.headerRead = false → framesPresent s 1 → streamBit s 0 = true →
      exec (.lzxDecompress fs bs) s = .next (faulting 0x51 .transformBitSet (advanced s 1))) ∧
    (0 < fs.toNat → fs.toNat ≤ 65536 → bs.toNat ≤ 65536 → s.headerRead = true → s.blockRemaining = 0 →
      framesPresent s 27 → (ofBits (streamBits s 3) = 0 ∨ 4 ≤ ofBits (streamBits s 3)) →
      exec (.lzxDecompress fs bs) s = .next (faulting 0x51 .invalidBlockType { advanced s 27 with
        blockType := BitVec.ofNat 3 (ofBits (streamBits s 3))
        blockRemaining := BitVec.ofNat 24 (ofBits ((streamBits s 27).drop 3)) })) ∧
    (0 < fs.toNat → fs.toNat ≤ 65536 → bs.toNat ≤ 65536 → s.headerRead = true → s.blockRemaining ≠ 0 →
      let run := min s.blockRemaining.toNat fs.toNat
      let t := { s with
        blockRemaining := BitVec.ofNat 24 (s.blockRemaining.toNat - run)
        windowPosn := BitVec.ofNat 17 (s.windowPosn.toNat % 65536) }
      (65536 < s.windowPosn.toNat % 65536 + run →
        exec (.lzxDecompress fs bs) s = .next (faulting 0x51 .windowOverrun t)) ∧
      (s.windowPosn.toNat % 65536 + run ≤ 65536 → s.blockType = 3 → bs.toNat < run →
        exec (.lzxDecompress fs bs) s = .next (faulting 0x51 .uncompressedOverrun t)))

/-! ## The framer -/

/-- How FRM_RUN ends its loop (45_framer.md R166, R168, R169): with nothing owed, or at a chunk header that carries a
size of 0, whose bytes are counted; then the length of the output, here 0, is checked. -/
def Obligations.FramerLoopEnds : Prop :=
  ∀ (s : State) (clen dlen : U32), s.faulted = false →
    (let ended (t : State) : Prop := exec (.frmRun clen dlen) s =
      .next (if dlen = 0 then succeeded (.bytes []) t else faulting 0x60 .outputLengthMismatch t)
    (clen = 0 → ended { s with frmConsumed := 0, frmOut := [] }) ∧
    (clen ≠ 0 → s.byteOff + 5 ≤ s.storeLen.toNat → s.storeByte s.byteOff = 0xFF →
      (s.storeByte (s.byteOff + 1) = 0 ∧ s.storeByte (s.byteOff + 2) = 0) ∨
        (s.storeByte (s.byteOff + 3) = 0 ∧ s.storeByte (s.byteOff + 4) = 0) →
      ended { skipped s 5 with frmConsumed := 5, frmOut := [] }) ∧
    (clen ≠ 0 → s.byteOff + 2 ≤ s.storeLen.toNat → s.storeByte s.byteOff = 0 → s.storeByte (s.byteOff + 1) = 0 →
      ended { skipped s 2 with frmConsumed := 2, frmOut := [] }))

/-- FRM_RUN over its chunks (45_framer.md R166, R168, R169): the outputs of the chunks, each read by its header and then
decompressed, stand in FRM_OUT one after the other, and the command answers them, only if they have exactly the declared
length. On a mismatch FRM_OUT holds what the command answers when it is given the length that the output has. -/
def Obligations.FramerOutputHasTheDeclaredLength : Prop :=
  ∀ (s t : State) (clen dlen : U32), s.faulted = false → exec (.frmRun clen dlen) s = .next t →
    (∀ r, t.response = some (.ok r) → r = .bytes t.frmOut ∧ t.frmOut.length = dlen.toNat) ∧
    (t.response = some (.fault .outputLengthMismatch) → t.frmOut.length ≠ dlen.toNat ∧
      ∀ d : U32, d.toNat = t.frmOut.length →
        ∃ u, exec (.frmRun clen d) s = .next u ∧ u.response = some (.ok (.bytes t.frmOut))) ∧
    ∀ (v : State) (out : List Byte), ChunksRun clen.toNat (framerBegun s) v out → v.frmOut = out ∧
      t = if out.length = dlen.toNat then succeeded (.bytes out) v else faulting 0x60 .outputLengthMismatch v

/-- A container of one chunk with one Uncompressed block decodes to its bytes (45_framer.md R166, 43_lzx_blocks.md R140,
R141, R146, 44_lzx_decode.md R163, R164; the source's scenario B): for any 1 to 65519 bytes and any three repeated
offsets, the explicit chunk header, the session bit, the block type `011`, the 24-bit size, the three little-endian
offsets and the bytes themselves give these bytes as output, and leave the offsets in the cache. -/
def Obligations.FramedUncompressedBlockDecodes : Prop :=
  ∀ (s : State) (r0 r1 r2 : U32) (data : List Byte),
    let n := data.length
    let u16 (v : Nat) : List Byte := [BitVec.ofNat 8 (v / 256), BitVec.ofNat 8 v]
    let u32 (v : U32) : List Byte := (List.range 4).map fun k => BitVec.ofNat 8 (v.toNat / 256 ^ k)
    s.faulted = false → s.headerRead = false → s.blockRemaining = 0 → s.windowPosn = 0 → s.bitOffset = 0 →
    1 ≤ n → n ≤ 65519 → s.byteOff + (21 + n) ≤ s.storeLen.toNat →
    bytesAhead s (21 + n) = [0xFF] ++ u16 n ++ u16 (16 + n) ++
      packFrames 2 ([false] ++ [false, true, true] ++ bitsOf 24 n) ++ u32 r0 ++ u32 r1 ++ u32 r2 ++ data →
    ∃ w, writtenWindow s 0 data w ∧
      exec (.frmRun (BitVec.ofNat 32 (21 + n)) (BitVec.ofNat 32 n)) s
        = .next (succeeded (.bytes data) { skipped s (21 + n) with
            rep0 := r0, rep1 := r1, rep2 := r2, headerRead := true, blockType := 3, blockRemaining := 0
            window := w, windowPosn := BitVec.ofNat 17 n
            frmConsumed := BitVec.ofNat 33 (21 + n), frmOut := data })
end

