-- ==== Sys2Proof/Laws/State.lean ====
section
/-!
SUPPORT. What each named update of the state does to each field: one lemma per field per update, so that no proof
unfolds an update.
-/

namespace Sys2Proof.Machine

/-! ## State.withCursor -/

@[simp] theorem State.withCursor_store (s : State) (b k : Nat) : (s.withCursor b k).store = s.store := rfl
@[simp] theorem State.withCursor_storeLen (s : State) (b k : Nat) : (s.withCursor b k).storeLen = s.storeLen := rfl
@[simp] theorem State.withCursor_byteOffset (s : State) (b k : Nat) : (s.withCursor b k).byteOffset = BitVec.ofNat 32 b := rfl
@[simp] theorem State.withCursor_bitOffset (s : State) (b k : Nat) : (s.withCursor b k).bitOffset = BitVec.ofNat 4 k := rfl
@[simp] theorem State.withCursor_rep0 (s : State) (b k : Nat) : (s.withCursor b k).rep0 = s.rep0 := rfl
@[simp] theorem State.withCursor_rep1 (s : State) (b k : Nat) : (s.withCursor b k).rep1 = s.rep1 := rfl
@[simp] theorem State.withCursor_rep2 (s : State) (b k : Nat) : (s.withCursor b k).rep2 = s.rep2 := rfl
@[simp] theorem State.withCursor_headerRead (s : State) (b k : Nat) : (s.withCursor b k).headerRead = s.headerRead := rfl
@[simp] theorem State.withCursor_blockType (s : State) (b k : Nat) : (s.withCursor b k).blockType = s.blockType := rfl
@[simp] theorem State.withCursor_blockRemaining (s : State) (b k : Nat) : (s.withCursor b k).blockRemaining = s.blockRemaining := rfl
@[simp] theorem State.withCursor_window (s : State) (b k : Nat) : (s.withCursor b k).window = s.window := rfl
@[simp] theorem State.withCursor_windowPosn (s : State) (b k : Nat) : (s.withCursor b k).windowPosn = s.windowPosn := rfl
@[simp] theorem State.withCursor_mainLen (s : State) (b k : Nat) : (s.withCursor b k).mainLen = s.mainLen := rfl
@[simp] theorem State.withCursor_lengthLen (s : State) (b k : Nat) : (s.withCursor b k).lengthLen = s.lengthLen := rfl
@[simp] theorem State.withCursor_alignedLen (s : State) (b k : Nat) : (s.withCursor b k).alignedLen = s.alignedLen := rfl
@[simp] theorem State.withCursor_pretreeLen (s : State) (b k : Nat) : (s.withCursor b k).pretreeLen = s.pretreeLen := rfl
@[simp] theorem State.withCursor_pretreeTable (s : State) (b k : Nat) : (s.withCursor b k).pretreeTable = s.pretreeTable := rfl
@[simp] theorem State.withCursor_mainTable (s : State) (b k : Nat) : (s.withCursor b k).mainTable = s.mainTable := rfl
@[simp] theorem State.withCursor_lengthTable (s : State) (b k : Nat) : (s.withCursor b k).lengthTable = s.lengthTable := rfl
@[simp] theorem State.withCursor_alignedTable (s : State) (b k : Nat) : (s.withCursor b k).alignedTable = s.alignedTable := rfl
@[simp] theorem State.withCursor_frmConsumed (s : State) (b k : Nat) : (s.withCursor b k).frmConsumed = s.frmConsumed := rfl
@[simp] theorem State.withCursor_frmOut (s : State) (b k : Nat) : (s.withCursor b k).frmOut = s.frmOut := rfl
@[simp] theorem State.withCursor_hostN (s : State) (b k : Nat) : (s.withCursor b k).hostN = s.hostN := rfl
@[simp] theorem State.withCursor_hostTb (s : State) (b k : Nat) : (s.withCursor b k).hostTb = s.hostTb := rfl
@[simp] theorem State.withCursor_hostLen (s : State) (b k : Nat) : (s.withCursor b k).hostLen = s.hostLen := rfl
@[simp] theorem State.withCursor_hostTable (s : State) (b k : Nat) : (s.withCursor b k).hostTable = s.hostTable := rfl
@[simp] theorem State.withCursor_faulted (s : State) (b k : Nat) : (s.withCursor b k).faulted = s.faulted := rfl
@[simp] theorem State.withCursor_faultClass (s : State) (b k : Nat) : (s.withCursor b k).faultClass = s.faultClass := rfl
@[simp] theorem State.withCursor_faultCause (s : State) (b k : Nat) : (s.withCursor b k).faultCause = s.faultCause := rfl
@[simp] theorem State.withCursor_faultOpcode (s : State) (b k : Nat) : (s.withCursor b k).faultOpcode = s.faultOpcode := rfl
@[simp] theorem State.withCursor_faultByteOffset (s : State) (b k : Nat) : (s.withCursor b k).faultByteOffset = s.faultByteOffset := rfl
@[simp] theorem State.withCursor_faultBitOffset (s : State) (b k : Nat) : (s.withCursor b k).faultBitOffset = s.faultBitOffset := rfl
@[simp] theorem State.withCursor_params (s : State) (b k : Nat) : (s.withCursor b k).params = s.params := rfl
@[simp] theorem State.withCursor_pending (s : State) (b k : Nat) : (s.withCursor b k).pending = s.pending := rfl
@[simp] theorem State.withCursor_response (s : State) (b k : Nat) : (s.withCursor b k).response = s.response := rfl
@[simp] theorem State.withCursor_tmp (s : State) (b k : Nat) : (s.withCursor b k).tmp = s.tmp := rfl

/-! ## State.withTmp -/

@[simp] theorem State.withTmp_store (s : State) (f : Temps → Temps) : (s.withTmp f).store = s.store := rfl
@[simp] theorem State.withTmp_storeLen (s : State) (f : Temps → Temps) : (s.withTmp f).storeLen = s.storeLen := rfl
@[simp] theorem State.withTmp_byteOffset (s : State) (f : Temps → Temps) : (s.withTmp f).byteOffset = s.byteOffset := rfl
@[simp] theorem State.withTmp_bitOffset (s : State) (f : Temps → Temps) : (s.withTmp f).bitOffset = s.bitOffset := rfl
@[simp] theorem State.withTmp_rep0 (s : State) (f : Temps → Temps) : (s.withTmp f).rep0 = s.rep0 := rfl
@[simp] theorem State.withTmp_rep1 (s : State) (f : Temps → Temps) : (s.withTmp f).rep1 = s.rep1 := rfl
@[simp] theorem State.withTmp_rep2 (s : State) (f : Temps → Temps) : (s.withTmp f).rep2 = s.rep2 := rfl
@[simp] theorem State.withTmp_headerRead (s : State) (f : Temps → Temps) : (s.withTmp f).headerRead = s.headerRead := rfl
@[simp] theorem State.withTmp_blockType (s : State) (f : Temps → Temps) : (s.withTmp f).blockType = s.blockType := rfl
@[simp] theorem State.withTmp_blockRemaining (s : State) (f : Temps → Temps) : (s.withTmp f).blockRemaining = s.blockRemaining := rfl
@[simp] theorem State.withTmp_window (s : State) (f : Temps → Temps) : (s.withTmp f).window = s.window := rfl
@[simp] theorem State.withTmp_windowPosn (s : State) (f : Temps → Temps) : (s.withTmp f).windowPosn = s.windowPosn := rfl
@[simp] theorem State.withTmp_mainLen (s : State) (f : Temps → Temps) : (s.withTmp f).mainLen = s.mainLen := rfl
@[simp] theorem State.withTmp_lengthLen (s : State) (f : Temps → Temps) : (s.withTmp f).lengthLen = s.lengthLen := rfl
@[simp] theorem State.withTmp_alignedLen (s : State) (f : Temps → Temps) : (s.withTmp f).alignedLen = s.alignedLen := rfl
@[simp] theorem State.withTmp_pretreeLen (s : State) (f : Temps → Temps) : (s.withTmp f).pretreeLen = s.pretreeLen := rfl
@[simp] theorem State.withTmp_pretreeTable (s : State) (f : Temps → Temps) : (s.withTmp f).pretreeTable = s.pretreeTable := rfl
@[simp] theorem State.withTmp_mainTable (s : State) (f : Temps → Temps) : (s.withTmp f).mainTable = s.mainTable := rfl
@[simp] theorem State.withTmp_lengthTable (s : State) (f : Temps → Temps) : (s.withTmp f).lengthTable = s.lengthTable := rfl
@[simp] theorem State.withTmp_alignedTable (s : State) (f : Temps → Temps) : (s.withTmp f).alignedTable = s.alignedTable := rfl
@[simp] theorem State.withTmp_frmConsumed (s : State) (f : Temps → Temps) : (s.withTmp f).frmConsumed = s.frmConsumed := rfl
@[simp] theorem State.withTmp_frmOut (s : State) (f : Temps → Temps) : (s.withTmp f).frmOut = s.frmOut := rfl
@[simp] theorem State.withTmp_hostN (s : State) (f : Temps → Temps) : (s.withTmp f).hostN = s.hostN := rfl
@[simp] theorem State.withTmp_hostTb (s : State) (f : Temps → Temps) : (s.withTmp f).hostTb = s.hostTb := rfl
@[simp] theorem State.withTmp_hostLen (s : State) (f : Temps → Temps) : (s.withTmp f).hostLen = s.hostLen := rfl
@[simp] theorem State.withTmp_hostTable (s : State) (f : Temps → Temps) : (s.withTmp f).hostTable = s.hostTable := rfl
@[simp] theorem State.withTmp_faulted (s : State) (f : Temps → Temps) : (s.withTmp f).faulted = s.faulted := rfl
@[simp] theorem State.withTmp_faultClass (s : State) (f : Temps → Temps) : (s.withTmp f).faultClass = s.faultClass := rfl
@[simp] theorem State.withTmp_faultCause (s : State) (f : Temps → Temps) : (s.withTmp f).faultCause = s.faultCause := rfl
@[simp] theorem State.withTmp_faultOpcode (s : State) (f : Temps → Temps) : (s.withTmp f).faultOpcode = s.faultOpcode := rfl
@[simp] theorem State.withTmp_faultByteOffset (s : State) (f : Temps → Temps) : (s.withTmp f).faultByteOffset = s.faultByteOffset := rfl
@[simp] theorem State.withTmp_faultBitOffset (s : State) (f : Temps → Temps) : (s.withTmp f).faultBitOffset = s.faultBitOffset := rfl
@[simp] theorem State.withTmp_params (s : State) (f : Temps → Temps) : (s.withTmp f).params = s.params := rfl
@[simp] theorem State.withTmp_pending (s : State) (f : Temps → Temps) : (s.withTmp f).pending = s.pending := rfl
@[simp] theorem State.withTmp_response (s : State) (f : Temps → Temps) : (s.withTmp f).response = s.response := rfl
@[simp] theorem State.withTmp_tmp (s : State) (f : Temps → Temps) : (s.withTmp f).tmp = f s.tmp := rfl

/-! ## State.begin -/

@[simp] theorem State.begin_store (s : State) (op : BitVec 8) : (s.begin op).store = s.store := rfl
@[simp] theorem State.begin_storeLen (s : State) (op : BitVec 8) : (s.begin op).storeLen = s.storeLen := rfl
@[simp] theorem State.begin_byteOffset (s : State) (op : BitVec 8) : (s.begin op).byteOffset = s.byteOffset := rfl
@[simp] theorem State.begin_bitOffset (s : State) (op : BitVec 8) : (s.begin op).bitOffset = s.bitOffset := rfl
@[simp] theorem State.begin_rep0 (s : State) (op : BitVec 8) : (s.begin op).rep0 = s.rep0 := rfl
@[simp] theorem State.begin_rep1 (s : State) (op : BitVec 8) : (s.begin op).rep1 = s.rep1 := rfl
@[simp] theorem State.begin_rep2 (s : State) (op : BitVec 8) : (s.begin op).rep2 = s.rep2 := rfl
@[simp] theorem State.begin_headerRead (s : State) (op : BitVec 8) : (s.begin op).headerRead = s.headerRead := rfl
@[simp] theorem State.begin_blockType (s : State) (op : BitVec 8) : (s.begin op).blockType = s.blockType := rfl
@[simp] theorem State.begin_blockRemaining (s : State) (op : BitVec 8) : (s.begin op).blockRemaining = s.blockRemaining := rfl
@[simp] theorem State.begin_window (s : State) (op : BitVec 8) : (s.begin op).window = s.window := rfl
@[simp] theorem State.begin_windowPosn (s : State) (op : BitVec 8) : (s.begin op).windowPosn = s.windowPosn := rfl
@[simp] theorem State.begin_mainLen (s : State) (op : BitVec 8) : (s.begin op).mainLen = s.mainLen := rfl
@[simp] theorem State.begin_lengthLen (s : State) (op : BitVec 8) : (s.begin op).lengthLen = s.lengthLen := rfl
@[simp] theorem State.begin_alignedLen (s : State) (op : BitVec 8) : (s.begin op).alignedLen = s.alignedLen := rfl
@[simp] theorem State.begin_pretreeLen (s : State) (op : BitVec 8) : (s.begin op).pretreeLen = s.pretreeLen := rfl
@[simp] theorem State.begin_pretreeTable (s : State) (op : BitVec 8) : (s.begin op).pretreeTable = s.pretreeTable := rfl
@[simp] theorem State.begin_mainTable (s : State) (op : BitVec 8) : (s.begin op).mainTable = s.mainTable := rfl
@[simp] theorem State.begin_lengthTable (s : State) (op : BitVec 8) : (s.begin op).lengthTable = s.lengthTable := rfl
@[simp] theorem State.begin_alignedTable (s : State) (op : BitVec 8) : (s.begin op).alignedTable = s.alignedTable := rfl
@[simp] theorem State.begin_frmConsumed (s : State) (op : BitVec 8) : (s.begin op).frmConsumed = s.frmConsumed := rfl
@[simp] theorem State.begin_frmOut (s : State) (op : BitVec 8) : (s.begin op).frmOut = s.frmOut := rfl
@[simp] theorem State.begin_hostN (s : State) (op : BitVec 8) : (s.begin op).hostN = s.hostN := rfl
@[simp] theorem State.begin_hostTb (s : State) (op : BitVec 8) : (s.begin op).hostTb = s.hostTb := rfl
@[simp] theorem State.begin_hostLen (s : State) (op : BitVec 8) : (s.begin op).hostLen = s.hostLen := rfl
@[simp] theorem State.begin_hostTable (s : State) (op : BitVec 8) : (s.begin op).hostTable = s.hostTable := rfl
@[simp] theorem State.begin_faulted (s : State) (op : BitVec 8) : (s.begin op).faulted = s.faulted := rfl
@[simp] theorem State.begin_faultClass (s : State) (op : BitVec 8) : (s.begin op).faultClass = s.faultClass := rfl
@[simp] theorem State.begin_faultCause (s : State) (op : BitVec 8) : (s.begin op).faultCause = s.faultCause := rfl
@[simp] theorem State.begin_faultOpcode (s : State) (op : BitVec 8) : (s.begin op).faultOpcode = s.faultOpcode := rfl
@[simp] theorem State.begin_faultByteOffset (s : State) (op : BitVec 8) : (s.begin op).faultByteOffset = s.faultByteOffset := rfl
@[simp] theorem State.begin_faultBitOffset (s : State) (op : BitVec 8) : (s.begin op).faultBitOffset = s.faultBitOffset := rfl
@[simp] theorem State.begin_params (s : State) (op : BitVec 8) : (s.begin op).params = s.params := rfl
@[simp] theorem State.begin_pending (s : State) (op : BitVec 8) : (s.begin op).pending = s.pending := rfl
@[simp] theorem State.begin_response (s : State) (op : BitVec 8) : (s.begin op).response = s.response := rfl
@[simp] theorem State.begin_tmp (s : State) (op : BitVec 8) : (s.begin op).tmp = { opcode := op } := rfl

/-! ## State.answer -/

@[simp] theorem State.answer_store (s : State) (r : Response) : (s.answer r).store = s.store := rfl
@[simp] theorem State.answer_storeLen (s : State) (r : Response) : (s.answer r).storeLen = s.storeLen := rfl
@[simp] theorem State.answer_byteOffset (s : State) (r : Response) : (s.answer r).byteOffset = s.byteOffset := rfl
@[simp] theorem State.answer_bitOffset (s : State) (r : Response) : (s.answer r).bitOffset = s.bitOffset := rfl
@[simp] theorem State.answer_rep0 (s : State) (r : Response) : (s.answer r).rep0 = s.rep0 := rfl
@[simp] theorem State.answer_rep1 (s : State) (r : Response) : (s.answer r).rep1 = s.rep1 := rfl
@[simp] theorem State.answer_rep2 (s : State) (r : Response) : (s.answer r).rep2 = s.rep2 := rfl
@[simp] theorem State.answer_headerRead (s : State) (r : Response) : (s.answer r).headerRead = s.headerRead := rfl
@[simp] theorem State.answer_blockType (s : State) (r : Response) : (s.answer r).blockType = s.blockType := rfl
@[simp] theorem State.answer_blockRemaining (s : State) (r : Response) : (s.answer r).blockRemaining = s.blockRemaining := rfl
@[simp] theorem State.answer_window (s : State) (r : Response) : (s.answer r).window = s.window := rfl
@[simp] theorem State.answer_windowPosn (s : State) (r : Response) : (s.answer r).windowPosn = s.windowPosn := rfl
@[simp] theorem State.answer_mainLen (s : State) (r : Response) : (s.answer r).mainLen = s.mainLen := rfl
@[simp] theorem State.answer_lengthLen (s : State) (r : Response) : (s.answer r).lengthLen = s.lengthLen := rfl
@[simp] theorem State.answer_alignedLen (s : State) (r : Response) : (s.answer r).alignedLen = s.alignedLen := rfl
@[simp] theorem State.answer_pretreeLen (s : State) (r : Response) : (s.answer r).pretreeLen = s.pretreeLen := rfl
@[simp] theorem State.answer_pretreeTable (s : State) (r : Response) : (s.answer r).pretreeTable = s.pretreeTable := rfl
@[simp] theorem State.answer_mainTable (s : State) (r : Response) : (s.answer r).mainTable = s.mainTable := rfl
@[simp] theorem State.answer_lengthTable (s : State) (r : Response) : (s.answer r).lengthTable = s.lengthTable := rfl
@[simp] theorem State.answer_alignedTable (s : State) (r : Response) : (s.answer r).alignedTable = s.alignedTable := rfl
@[simp] theorem State.answer_frmConsumed (s : State) (r : Response) : (s.answer r).frmConsumed = s.frmConsumed := rfl
@[simp] theorem State.answer_frmOut (s : State) (r : Response) : (s.answer r).frmOut = s.frmOut := rfl
@[simp] theorem State.answer_hostN (s : State) (r : Response) : (s.answer r).hostN = s.hostN := rfl
@[simp] theorem State.answer_hostTb (s : State) (r : Response) : (s.answer r).hostTb = s.hostTb := rfl
@[simp] theorem State.answer_hostLen (s : State) (r : Response) : (s.answer r).hostLen = s.hostLen := rfl
@[simp] theorem State.answer_hostTable (s : State) (r : Response) : (s.answer r).hostTable = s.hostTable := rfl
@[simp] theorem State.answer_faulted (s : State) (r : Response) : (s.answer r).faulted = s.faulted := rfl
@[simp] theorem State.answer_faultClass (s : State) (r : Response) : (s.answer r).faultClass = s.faultClass := rfl
@[simp] theorem State.answer_faultCause (s : State) (r : Response) : (s.answer r).faultCause = s.faultCause := rfl
@[simp] theorem State.answer_faultOpcode (s : State) (r : Response) : (s.answer r).faultOpcode = s.faultOpcode := rfl
@[simp] theorem State.answer_faultByteOffset (s : State) (r : Response) : (s.answer r).faultByteOffset = s.faultByteOffset := rfl
@[simp] theorem State.answer_faultBitOffset (s : State) (r : Response) : (s.answer r).faultBitOffset = s.faultBitOffset := rfl
@[simp] theorem State.answer_params (s : State) (r : Response) : (s.answer r).params = s.params := rfl
@[simp] theorem State.answer_pending (s : State) (r : Response) : (s.answer r).pending = s.pending := rfl
@[simp] theorem State.answer_response (s : State) (r : Response) : (s.answer r).response = some r := rfl
@[simp] theorem State.answer_tmp (s : State) (r : Response) : (s.answer r).tmp = {} := rfl

/-! ## State.refuse -/

@[simp] theorem State.refuse_store (s : State) : s.refuse.store = s.store := rfl
@[simp] theorem State.refuse_storeLen (s : State) : s.refuse.storeLen = s.storeLen := rfl
@[simp] theorem State.refuse_byteOffset (s : State) : s.refuse.byteOffset = s.byteOffset := rfl
@[simp] theorem State.refuse_bitOffset (s : State) : s.refuse.bitOffset = s.bitOffset := rfl
@[simp] theorem State.refuse_rep0 (s : State) : s.refuse.rep0 = s.rep0 := rfl
@[simp] theorem State.refuse_rep1 (s : State) : s.refuse.rep1 = s.rep1 := rfl
@[simp] theorem State.refuse_rep2 (s : State) : s.refuse.rep2 = s.rep2 := rfl
@[simp] theorem State.refuse_headerRead (s : State) : s.refuse.headerRead = s.headerRead := rfl
@[simp] theorem State.refuse_blockType (s : State) : s.refuse.blockType = s.blockType := rfl
@[simp] theorem State.refuse_blockRemaining (s : State) : s.refuse.blockRemaining = s.blockRemaining := rfl
@[simp] theorem State.refuse_window (s : State) : s.refuse.window = s.window := rfl
@[simp] theorem State.refuse_windowPosn (s : State) : s.refuse.windowPosn = s.windowPosn := rfl
@[simp] theorem State.refuse_mainLen (s : State) : s.refuse.mainLen = s.mainLen := rfl
@[simp] theorem State.refuse_lengthLen (s : State) : s.refuse.lengthLen = s.lengthLen := rfl
@[simp] theorem State.refuse_alignedLen (s : State) : s.refuse.alignedLen = s.alignedLen := rfl
@[simp] theorem State.refuse_pretreeLen (s : State) : s.refuse.pretreeLen = s.pretreeLen := rfl
@[simp] theorem State.refuse_pretreeTable (s : State) : s.refuse.pretreeTable = s.pretreeTable := rfl
@[simp] theorem State.refuse_mainTable (s : State) : s.refuse.mainTable = s.mainTable := rfl
@[simp] theorem State.refuse_lengthTable (s : State) : s.refuse.lengthTable = s.lengthTable := rfl
@[simp] theorem State.refuse_alignedTable (s : State) : s.refuse.alignedTable = s.alignedTable := rfl
@[simp] theorem State.refuse_frmConsumed (s : State) : s.refuse.frmConsumed = s.frmConsumed := rfl
@[simp] theorem State.refuse_frmOut (s : State) : s.refuse.frmOut = s.frmOut := rfl
@[simp] theorem State.refuse_hostN (s : State) : s.refuse.hostN = s.hostN := rfl
@[simp] theorem State.refuse_hostTb (s : State) : s.refuse.hostTb = s.hostTb := rfl
@[simp] theorem State.refuse_hostLen (s : State) : s.refuse.hostLen = s.hostLen := rfl
@[simp] theorem State.refuse_hostTable (s : State) : s.refuse.hostTable = s.hostTable := rfl
@[simp] theorem State.refuse_faulted (s : State) : s.refuse.faulted = s.faulted := rfl
@[simp] theorem State.refuse_faultClass (s : State) : s.refuse.faultClass = s.faultClass := rfl
@[simp] theorem State.refuse_faultCause (s : State) : s.refuse.faultCause = s.faultCause := rfl
@[simp] theorem State.refuse_faultOpcode (s : State) : s.refuse.faultOpcode = s.faultOpcode := rfl
@[simp] theorem State.refuse_faultByteOffset (s : State) : s.refuse.faultByteOffset = s.faultByteOffset := rfl
@[simp] theorem State.refuse_faultBitOffset (s : State) : s.refuse.faultBitOffset = s.faultBitOffset := rfl
@[simp] theorem State.refuse_params (s : State) : s.refuse.params = s.params := rfl
@[simp] theorem State.refuse_pending (s : State) : s.refuse.pending = s.pending := rfl
@[simp] theorem State.refuse_response (s : State) : s.refuse.response = some .refused := rfl
@[simp] theorem State.refuse_tmp (s : State) : s.refuse.tmp = s.tmp := rfl

/-! ## State.withStore -/

@[simp] theorem State.withStore_store (s : State) (d : List Byte) : (s.withStore d).store = Memory.ofBytes 0 d := rfl
@[simp] theorem State.withStore_storeLen (s : State) (d : List Byte) : (s.withStore d).storeLen = BitVec.ofNat 32 d.length := rfl
@[simp] theorem State.withStore_byteOffset (s : State) (d : List Byte) : (s.withStore d).byteOffset = 0 := rfl
@[simp] theorem State.withStore_bitOffset (s : State) (d : List Byte) : (s.withStore d).bitOffset = 0 := rfl
@[simp] theorem State.withStore_rep0 (s : State) (d : List Byte) : (s.withStore d).rep0 = s.rep0 := rfl
@[simp] theorem State.withStore_rep1 (s : State) (d : List Byte) : (s.withStore d).rep1 = s.rep1 := rfl
@[simp] theorem State.withStore_rep2 (s : State) (d : List Byte) : (s.withStore d).rep2 = s.rep2 := rfl
@[simp] theorem State.withStore_headerRead (s : State) (d : List Byte) : (s.withStore d).headerRead = s.headerRead := rfl
@[simp] theorem State.withStore_blockType (s : State) (d : List Byte) : (s.withStore d).blockType = s.blockType := rfl
@[simp] theorem State.withStore_blockRemaining (s : State) (d : List Byte) : (s.withStore d).blockRemaining = s.blockRemaining := rfl
@[simp] theorem State.withStore_window (s : State) (d : List Byte) : (s.withStore d).window = s.window := rfl
@[simp] theorem State.withStore_windowPosn (s : State) (d : List Byte) : (s.withStore d).windowPosn = s.windowPosn := rfl
@[simp] theorem State.withStore_mainLen (s : State) (d : List Byte) : (s.withStore d).mainLen = s.mainLen := rfl
@[simp] theorem State.withStore_lengthLen (s : State) (d : List Byte) : (s.withStore d).lengthLen = s.lengthLen := rfl
@[simp] theorem State.withStore_alignedLen (s : State) (d : List Byte) : (s.withStore d).alignedLen = s.alignedLen := rfl
@[simp] theorem State.withStore_pretreeLen (s : State) (d : List Byte) : (s.withStore d).pretreeLen = s.pretreeLen := rfl
@[simp] theorem State.withStore_pretreeTable (s : State) (d : List Byte) : (s.withStore d).pretreeTable = s.pretreeTable := rfl
@[simp] theorem State.withStore_mainTable (s : State) (d : List Byte) : (s.withStore d).mainTable = s.mainTable := rfl
@[simp] theorem State.withStore_lengthTable (s : State) (d : List Byte) : (s.withStore d).lengthTable = s.lengthTable := rfl
@[simp] theorem State.withStore_alignedTable (s : State) (d : List Byte) : (s.withStore d).alignedTable = s.alignedTable := rfl
@[simp] theorem State.withStore_frmConsumed (s : State) (d : List Byte) : (s.withStore d).frmConsumed = s.frmConsumed := rfl
@[simp] theorem State.withStore_frmOut (s : State) (d : List Byte) : (s.withStore d).frmOut = s.frmOut := rfl
@[simp] theorem State.withStore_hostN (s : State) (d : List Byte) : (s.withStore d).hostN = s.hostN := rfl
@[simp] theorem State.withStore_hostTb (s : State) (d : List Byte) : (s.withStore d).hostTb = s.hostTb := rfl
@[simp] theorem State.withStore_hostLen (s : State) (d : List Byte) : (s.withStore d).hostLen = s.hostLen := rfl
@[simp] theorem State.withStore_hostTable (s : State) (d : List Byte) : (s.withStore d).hostTable = s.hostTable := rfl
@[simp] theorem State.withStore_faulted (s : State) (d : List Byte) : (s.withStore d).faulted = s.faulted := rfl
@[simp] theorem State.withStore_faultClass (s : State) (d : List Byte) : (s.withStore d).faultClass = s.faultClass := rfl
@[simp] theorem State.withStore_faultCause (s : State) (d : List Byte) : (s.withStore d).faultCause = s.faultCause := rfl
@[simp] theorem State.withStore_faultOpcode (s : State) (d : List Byte) : (s.withStore d).faultOpcode = s.faultOpcode := rfl
@[simp] theorem State.withStore_faultByteOffset (s : State) (d : List Byte) : (s.withStore d).faultByteOffset = s.faultByteOffset := rfl
@[simp] theorem State.withStore_faultBitOffset (s : State) (d : List Byte) : (s.withStore d).faultBitOffset = s.faultBitOffset := rfl
@[simp] theorem State.withStore_params (s : State) (d : List Byte) : (s.withStore d).params = s.params := rfl
@[simp] theorem State.withStore_pending (s : State) (d : List Byte) : (s.withStore d).pending = s.pending := rfl
@[simp] theorem State.withStore_response (s : State) (d : List Byte) : (s.withStore d).response = s.response := rfl
@[simp] theorem State.withStore_tmp (s : State) (d : List Byte) : (s.withStore d).tmp = s.tmp := rfl

/-! ## faultEntry -/

@[simp] theorem faultEntry_store (c : Cause) (s : State) : (faultEntry c s).store = s.store := rfl
@[simp] theorem faultEntry_storeLen (c : Cause) (s : State) : (faultEntry c s).storeLen = s.storeLen := rfl
@[simp] theorem faultEntry_byteOffset (c : Cause) (s : State) : (faultEntry c s).byteOffset = s.byteOffset := rfl
@[simp] theorem faultEntry_bitOffset (c : Cause) (s : State) : (faultEntry c s).bitOffset = s.bitOffset := rfl
@[simp] theorem faultEntry_rep0 (c : Cause) (s : State) : (faultEntry c s).rep0 = s.rep0 := rfl
@[simp] theorem faultEntry_rep1 (c : Cause) (s : State) : (faultEntry c s).rep1 = s.rep1 := rfl
@[simp] theorem faultEntry_rep2 (c : Cause) (s : State) : (faultEntry c s).rep2 = s.rep2 := rfl
@[simp] theorem faultEntry_headerRead (c : Cause) (s : State) : (faultEntry c s).headerRead = s.headerRead := rfl
@[simp] theorem faultEntry_blockType (c : Cause) (s : State) : (faultEntry c s).blockType = s.blockType := rfl
@[simp] theorem faultEntry_blockRemaining (c : Cause) (s : State) : (faultEntry c s).blockRemaining = s.blockRemaining := rfl
@[simp] theorem faultEntry_window (c : Cause) (s : State) : (faultEntry c s).window = s.window := rfl
@[simp] theorem faultEntry_windowPosn (c : Cause) (s : State) : (faultEntry c s).windowPosn = s.windowPosn := rfl
@[simp] theorem faultEntry_mainLen (c : Cause) (s : State) : (faultEntry c s).mainLen = s.mainLen := rfl
@[simp] theorem faultEntry_lengthLen (c : Cause) (s : State) : (faultEntry c s).lengthLen = s.lengthLen := rfl
@[simp] theorem faultEntry_alignedLen (c : Cause) (s : State) : (faultEntry c s).alignedLen = s.alignedLen := rfl
@[simp] theorem faultEntry_pretreeLen (c : Cause) (s : State) : (faultEntry c s).pretreeLen = s.pretreeLen := rfl
@[simp] theorem faultEntry_pretreeTable (c : Cause) (s : State) : (faultEntry c s).pretreeTable = s.pretreeTable := rfl
@[simp] theorem faultEntry_mainTable (c : Cause) (s : State) : (faultEntry c s).mainTable = s.mainTable := rfl
@[simp] theorem faultEntry_lengthTable (c : Cause) (s : State) : (faultEntry c s).lengthTable = s.lengthTable := rfl
@[simp] theorem faultEntry_alignedTable (c : Cause) (s : State) : (faultEntry c s).alignedTable = s.alignedTable := rfl
@[simp] theorem faultEntry_frmConsumed (c : Cause) (s : State) : (faultEntry c s).frmConsumed = s.frmConsumed := rfl
@[simp] theorem faultEntry_frmOut (c : Cause) (s : State) : (faultEntry c s).frmOut = s.frmOut := rfl
@[simp] theorem faultEntry_hostN (c : Cause) (s : State) : (faultEntry c s).hostN = s.hostN := rfl
@[simp] theorem faultEntry_hostTb (c : Cause) (s : State) : (faultEntry c s).hostTb = s.hostTb := rfl
@[simp] theorem faultEntry_hostLen (c : Cause) (s : State) : (faultEntry c s).hostLen = s.hostLen := rfl
@[simp] theorem faultEntry_hostTable (c : Cause) (s : State) : (faultEntry c s).hostTable = s.hostTable := rfl
@[simp] theorem faultEntry_faulted (c : Cause) (s : State) : (faultEntry c s).faulted = true := rfl
@[simp] theorem faultEntry_faultClass (c : Cause) (s : State) : (faultEntry c s).faultClass = c.faultClass.code := rfl
@[simp] theorem faultEntry_faultCause (c : Cause) (s : State) : (faultEntry c s).faultCause = c.code := rfl
@[simp] theorem faultEntry_faultOpcode (c : Cause) (s : State) : (faultEntry c s).faultOpcode = s.tmp.opcode := rfl
@[simp] theorem faultEntry_faultByteOffset (c : Cause) (s : State) : (faultEntry c s).faultByteOffset = s.byteOffset := rfl
@[simp] theorem faultEntry_faultBitOffset (c : Cause) (s : State) : (faultEntry c s).faultBitOffset = s.bitOffset := rfl
@[simp] theorem faultEntry_params (c : Cause) (s : State) : (faultEntry c s).params = s.params := rfl
@[simp] theorem faultEntry_pending (c : Cause) (s : State) : (faultEntry c s).pending = s.pending := rfl
@[simp] theorem faultEntry_response (c : Cause) (s : State) : (faultEntry c s).response = some (.fault c) := rfl
@[simp] theorem faultEntry_tmp (c : Cause) (s : State) : (faultEntry c s).tmp = {} := rfl

/-! ## State.setTable -/

@[simp] theorem State.setTable_store (s : State) (x : Tree) (t : Table) : (s.setTable x t).store = s.store := by
  cases x <;> rfl
@[simp] theorem State.setTable_storeLen (s : State) (x : Tree) (t : Table) : (s.setTable x t).storeLen = s.storeLen := by
  cases x <;> rfl
@[simp] theorem State.setTable_byteOffset (s : State) (x : Tree) (t : Table) : (s.setTable x t).byteOffset = s.byteOffset := by
  cases x <;> rfl
@[simp] theorem State.setTable_bitOffset (s : State) (x : Tree) (t : Table) : (s.setTable x t).bitOffset = s.bitOffset := by
  cases x <;> rfl
@[simp] theorem State.setTable_rep0 (s : State) (x : Tree) (t : Table) : (s.setTable x t).rep0 = s.rep0 := by
  cases x <;> rfl
@[simp] theorem State.setTable_rep1 (s : State) (x : Tree) (t : Table) : (s.setTable x t).rep1 = s.rep1 := by
  cases x <;> rfl
@[simp] theorem State.setTable_rep2 (s : State) (x : Tree) (t : Table) : (s.setTable x t).rep2 = s.rep2 := by
  cases x <;> rfl
@[simp] theorem State.setTable_headerRead (s : State) (x : Tree) (t : Table) : (s.setTable x t).headerRead = s.headerRead := by
  cases x <;> rfl
@[simp] theorem State.setTable_blockType (s : State) (x : Tree) (t : Table) : (s.setTable x t).blockType = s.blockType := by
  cases x <;> rfl
@[simp] theorem State.setTable_blockRemaining (s : State) (x : Tree) (t : Table) : (s.setTable x t).blockRemaining = s.blockRemaining := by
  cases x <;> rfl
@[simp] theorem State.setTable_window (s : State) (x : Tree) (t : Table) : (s.setTable x t).window = s.window := by
  cases x <;> rfl
@[simp] theorem State.setTable_windowPosn (s : State) (x : Tree) (t : Table) : (s.setTable x t).windowPosn = s.windowPosn := by
  cases x <;> rfl
@[simp] theorem State.setTable_mainLen (s : State) (x : Tree) (t : Table) : (s.setTable x t).mainLen = s.mainLen := by
  cases x <;> rfl
@[simp] theorem State.setTable_lengthLen (s : State) (x : Tree) (t : Table) : (s.setTable x t).lengthLen = s.lengthLen := by
  cases x <;> rfl
@[simp] theorem State.setTable_alignedLen (s : State) (x : Tree) (t : Table) : (s.setTable x t).alignedLen = s.alignedLen := by
  cases x <;> rfl
@[simp] theorem State.setTable_pretreeLen (s : State) (x : Tree) (t : Table) : (s.setTable x t).pretreeLen = s.pretreeLen := by
  cases x <;> rfl
@[simp] theorem State.setTable_pretreeTable (s : State) (x : Tree) (t : Table) :
    (s.setTable x t).pretreeTable = if x = .pretree then t else s.pretreeTable := by cases x <;> rfl
@[simp] theorem State.setTable_mainTable (s : State) (x : Tree) (t : Table) :
    (s.setTable x t).mainTable = if x = .main then t else s.mainTable := by cases x <;> rfl
@[simp] theorem State.setTable_lengthTable (s : State) (x : Tree) (t : Table) :
    (s.setTable x t).lengthTable = if x = .length then t else s.lengthTable := by cases x <;> rfl
@[simp] theorem State.setTable_alignedTable (s : State) (x : Tree) (t : Table) :
    (s.setTable x t).alignedTable = if x = .aligned then t else s.alignedTable := by cases x <;> rfl
@[simp] theorem State.setTable_frmConsumed (s : State) (x : Tree) (t : Table) : (s.setTable x t).frmConsumed = s.frmConsumed := by
  cases x <;> rfl
@[simp] theorem State.setTable_frmOut (s : State) (x : Tree) (t : Table) : (s.setTable x t).frmOut = s.frmOut := by
  cases x <;> rfl
@[simp] theorem State.setTable_hostN (s : State) (x : Tree) (t : Table) : (s.setTable x t).hostN = s.hostN := by
  cases x <;> rfl
@[simp] theorem State.setTable_hostTb (s : State) (x : Tree) (t : Table) : (s.setTable x t).hostTb = s.hostTb := by
  cases x <;> rfl
@[simp] theorem State.setTable_hostLen (s : State) (x : Tree) (t : Table) : (s.setTable x t).hostLen = s.hostLen := by
  cases x <;> rfl
@[simp] theorem State.setTable_hostTable (s : State) (x : Tree) (t : Table) : (s.setTable x t).hostTable = s.hostTable := by
  cases x <;> rfl
@[simp] theorem State.setTable_faulted (s : State) (x : Tree) (t : Table) : (s.setTable x t).faulted = s.faulted := by
  cases x <;> rfl
@[simp] theorem State.setTable_faultClass (s : State) (x : Tree) (t : Table) : (s.setTable x t).faultClass = s.faultClass := by
  cases x <;> rfl
@[simp] theorem State.setTable_faultCause (s : State) (x : Tree) (t : Table) : (s.setTable x t).faultCause = s.faultCause := by
  cases x <;> rfl
@[simp] theorem State.setTable_faultOpcode (s : State) (x : Tree) (t : Table) : (s.setTable x t).faultOpcode = s.faultOpcode := by
  cases x <;> rfl
@[simp] theorem State.setTable_faultByteOffset (s : State) (x : Tree) (t : Table) : (s.setTable x t).faultByteOffset = s.faultByteOffset := by
  cases x <;> rfl
@[simp] theorem State.setTable_faultBitOffset (s : State) (x : Tree) (t : Table) : (s.setTable x t).faultBitOffset = s.faultBitOffset := by
  cases x <;> rfl
@[simp] theorem State.setTable_params (s : State) (x : Tree) (t : Table) : (s.setTable x t).params = s.params := by
  cases x <;> rfl
@[simp] theorem State.setTable_pending (s : State) (x : Tree) (t : Table) : (s.setTable x t).pending = s.pending := by
  cases x <;> rfl
@[simp] theorem State.setTable_response (s : State) (x : Tree) (t : Table) : (s.setTable x t).response = s.response := by
  cases x <;> rfl
@[simp] theorem State.setTable_tmp (s : State) (x : Tree) (t : Table) : (s.setTable x t).tmp = s.tmp := by
  cases x <;> rfl

@[simp] theorem State.setTable_treeTable (s : State) (x : Tree) (t : Table) (y : Tree) :
    (s.setTable x t).treeTable y = if x = y then t else s.treeTable y := by cases x <;> cases y <;> rfl

@[simp] theorem State.setTable_treeLengths (s : State) (x : Tree) (t : Table) (y : Tree) :
    (s.setTable x t).treeLengths y = s.treeLengths y := by cases x <;> cases y <;> rfl

/-! ## State.fillLengths -/

@[simp] theorem State.fillLengths_store (s : State) (x : LenArray) (i count v : Nat) :
    (s.fillLengths x i count v).store = s.store := by cases x <;> rfl
@[simp] theorem State.fillLengths_storeLen (s : State) (x : LenArray) (i count v : Nat) :
    (s.fillLengths x i count v).storeLen = s.storeLen := by cases x <;> rfl
@[simp] theorem State.fillLengths_byteOffset (s : State) (x : LenArray) (i count v : Nat) :
    (s.fillLengths x i count v).byteOffset = s.byteOffset := by cases x <;> rfl
@[simp] theorem State.fillLengths_bitOffset (s : State) (x : LenArray) (i count v : Nat) :
    (s.fillLengths x i count v).bitOffset = s.bitOffset := by cases x <;> rfl
@[simp] theorem State.fillLengths_rep0 (s : State) (x : LenArray) (i count v : Nat) :
    (s.fillLengths x i count v).rep0 = s.rep0 := by cases x <;> rfl
@[simp] theorem State.fillLengths_rep1 (s : State) (x : LenArray) (i count v : Nat) :
    (s.fillLengths x i count v).rep1 = s.rep1 := by cases x <;> rfl
@[simp] theorem State.fillLengths_rep2 (s : State) (x : LenArray) (i count v : Nat) :
    (s.fillLengths x i count v).rep2 = s.rep2 := by cases x <;> rfl
@[simp] theorem State.fillLengths_headerRead (s : State) (x : LenArray) (i count v : Nat) :
    (s.fillLengths x i count v).headerRead = s.headerRead := by cases x <;> rfl
@[simp] theorem State.fillLengths_blockType (s : State) (x : LenArray) (i count v : Nat) :
    (s.fillLengths x i count v).blockType = s.blockType := by cases x <;> rfl
@[simp] theorem State.fillLengths_blockRemaining (s : State) (x : LenArray) (i count v : Nat) :
    (s.fillLengths x i count v).blockRemaining = s.blockRemaining := by cases x <;> rfl
@[simp] theorem State.fillLengths_window (s : State) (x : LenArray) (i count v : Nat) :
    (s.fillLengths x i count v).window = s.window := by cases x <;> rfl
@[simp] theorem State.fillLengths_windowPosn (s : State) (x : LenArray) (i count v : Nat) :
    (s.fillLengths x i count v).windowPosn = s.windowPosn := by cases x <;> rfl
@[simp] theorem State.fillLengths_mainLen (s : State) (x : LenArray) (i count v : Nat) :
    (s.fillLengths x i count v).mainLen = if x = .main then fillVector s.mainLen i v count else s.mainLen := by cases x <;> rfl
@[simp] theorem State.fillLengths_lengthLen (s : State) (x : LenArray) (i count v : Nat) :
    (s.fillLengths x i count v).lengthLen = if x = .length then fillVector s.lengthLen i v count else s.lengthLen := by cases x <;> rfl
@[simp] theorem State.fillLengths_alignedLen (s : State) (x : LenArray) (i count v : Nat) :
    (s.fillLengths x i count v).alignedLen = s.alignedLen := by cases x <;> rfl
@[simp] theorem State.fillLengths_pretreeLen (s : State) (x : LenArray) (i count v : Nat) :
    (s.fillLengths x i count v).pretreeLen = s.pretreeLen := by cases x <;> rfl
@[simp] theorem State.fillLengths_pretreeTable (s : State) (x : LenArray) (i count v : Nat) :
    (s.fillLengths x i count v).pretreeTable = s.pretreeTable := by cases x <;> rfl
@[simp] theorem State.fillLengths_mainTable (s : State) (x : LenArray) (i count v : Nat) :
    (s.fillLengths x i count v).mainTable = s.mainTable := by cases x <;> rfl
@[simp] theorem State.fillLengths_lengthTable (s : State) (x : LenArray) (i count v : Nat) :
    (s.fillLengths x i count v).lengthTable = s.lengthTable := by cases x <;> rfl
@[simp] theorem State.fillLengths_alignedTable (s : State) (x : LenArray) (i count v : Nat) :
    (s.fillLengths x i count v).alignedTable = s.alignedTable := by cases x <;> rfl
@[simp] theorem State.fillLengths_frmConsumed (s : State) (x : LenArray) (i count v : Nat) :
    (s.fillLengths x i count v).frmConsumed = s.frmConsumed := by cases x <;> rfl
@[simp] theorem State.fillLengths_frmOut (s : State) (x : LenArray) (i count v : Nat) :
    (s.fillLengths x i count v).frmOut = s.frmOut := by cases x <;> rfl
@[simp] theorem State.fillLengths_hostN (s : State) (x : LenArray) (i count v : Nat) :
    (s.fillLengths x i count v).hostN = s.hostN := by cases x <;> rfl
@[simp] theorem State.fillLengths_hostTb (s : State) (x : LenArray) (i count v : Nat) :
    (s.fillLengths x i count v).hostTb = s.hostTb := by cases x <;> rfl
@[simp] theorem State.fillLengths_hostLen (s : State) (x : LenArray) (i count v : Nat) :
    (s.fillLengths x i count v).hostLen = s.hostLen := by cases x <;> rfl
@[simp] theorem State.fillLengths_hostTable (s : State) (x : LenArray) (i count v : Nat) :
    (s.fillLengths x i count v).hostTable = s.hostTable := by cases x <;> rfl
@[simp] theorem State.fillLengths_faulted (s : State) (x : LenArray) (i count v : Nat) :
    (s.fillLengths x i count v).faulted = s.faulted := by cases x <;> rfl
@[simp] theorem State.fillLengths_faultClass (s : State) (x : LenArray) (i count v : Nat) :
    (s.fillLengths x i count v).faultClass = s.faultClass := by cases x <;> rfl
@[simp] theorem State.fillLengths_faultCause (s : State) (x : LenArray) (i count v : Nat) :
    (s.fillLengths x i count v).faultCause = s.faultCause := by cases x <;> rfl
@[simp] theorem State.fillLengths_faultOpcode (s : State) (x : LenArray) (i count v : Nat) :
    (s.fillLengths x i count v).faultOpcode = s.faultOpcode := by cases x <;> rfl
@[simp] theorem State.fillLengths_faultByteOffset (s : State) (x : LenArray) (i count v : Nat) :
    (s.fillLengths x i count v).faultByteOffset = s.faultByteOffset := by cases x <;> rfl
@[simp] theorem State.fillLengths_faultBitOffset (s : State) (x : LenArray) (i count v : Nat) :
    (s.fillLengths x i count v).faultBitOffset = s.faultBitOffset := by cases x <;> rfl
@[simp] theorem State.fillLengths_params (s : State) (x : LenArray) (i count v : Nat) :
    (s.fillLengths x i count v).params = s.params := by cases x <;> rfl
@[simp] theorem State.fillLengths_pending (s : State) (x : LenArray) (i count v : Nat) :
    (s.fillLengths x i count v).pending = s.pending := by cases x <;> rfl
@[simp] theorem State.fillLengths_response (s : State) (x : LenArray) (i count v : Nat) :
    (s.fillLengths x i count v).response = s.response := by cases x <;> rfl
@[simp] theorem State.fillLengths_tmp (s : State) (x : LenArray) (i count v : Nat) :
    (s.fillLengths x i count v).tmp = s.tmp := by cases x <;> rfl

end Sys2Proof.Machine
end

