-- ==== Sys2Proof/Laws/Proc.lean ====
section
/-!
SUPPORT. The procedures: how they compose, what a run of one tells about its parts, and `Keeps`, a relation between
the state a procedure starts in and the state it leaves, whether it returns or ends early.
-/

namespace Sys2Proof.Machine

/-! ## Running the primitives -/

theorem Proc.bind_run {α β : Type} (p : Proc α) (f : α → Proc β) (s : State) :
    (p >>= f) s = match p s with
      | .ok a s' => f a s'
      | .error e s' => .error e s' := by
  change EStateM.bind p f s = _
  unfold EStateM.bind
  cases p s <;> rfl

@[simp] theorem Proc.pure_run {α : Type} (a : α) (s : State) : (pure a : Proc α) s = .ok a s := rfl

@[simp] theorem Proc.get_run (s : State) : (get : Proc State) s = .ok s s := rfl

@[simp] theorem update_run (f : State → State) (s : State) : update f s = .ok () (f s) := rfl

@[simp] theorem raise_run {α : Type} (c : Cause) (s : State) : (raise c : Proc α) s = .error (.raise c) s := rfl

@[simp] theorem halt_run {α : Type} (f : Fault) (s : State) : (halt f : Proc α) s = .error (.halt f) s := rfl

/-- A sequence goes on where its first part returns. -/
theorem Proc.bind_of_ok {α β : Type} {p : Proc α} {f : α → Proc β} {s s' : State} {a : α} (h : p s = .ok a s') :
    (p >>= f) s = f a s' := by rw [Proc.bind_run, h]

/-- A sequence ends where its first part ends early. -/
theorem Proc.bind_of_error {α β : Type} {p : Proc α} {f : α → Proc β} {s s' : State} {e : Stop}
    (h : p s = .error e s') : (p >>= f) s = .error e s' := by rw [Proc.bind_run, h]

@[simp] theorem Proc.bind_get {β : Type} (f : State → Proc β) (s : State) : ((get : Proc State) >>= f) s = f s s :=
  rfl

@[simp] theorem Proc.bind_pure {α β : Type} (a : α) (f : α → Proc β) (s : State) :
    ((pure a : Proc α) >>= f) s = f a s := rfl

@[simp] theorem Proc.bind_update {β : Type} (g : State → State) (f : Unit → Proc β) (s : State) :
    (update g >>= f) s = f () (g s) := rfl

@[simp] theorem Proc.bind_raise {α β : Type} (c : Cause) (f : α → Proc β) (s : State) :
    ((raise c : Proc α) >>= f) s = .error (.raise c) s := rfl

@[simp] theorem Proc.bind_halt {α β : Type} (c : Fault) (f : α → Proc β) (s : State) :
    ((halt c : Proc α) >>= f) s = .error (.halt c) s := rfl

/-- A sequence returns exactly if both its parts do. -/
theorem Proc.bind_eq_ok {α β : Type} {p : Proc α} {f : α → Proc β} {s t : State} {b : β} :
    (p >>= f) s = .ok b t ↔ ∃ a s', p s = .ok a s' ∧ f a s' = .ok b t := by
  rw [Proc.bind_run]
  cases p s <;> simp

/-- A sequence ends early in its first part, or after it in its second. -/
theorem Proc.bind_eq_error {α β : Type} {p : Proc α} {f : α → Proc β} {s t : State} {e : Stop} :
    (p >>= f) s = .error e t ↔ p s = .error e t ∨ ∃ a s', p s = .ok a s' ∧ f a s' = .error e t := by
  rw [Proc.bind_run]
  cases p s <;> simp

/-! ## Keeping a relation -/

/-- The state that a run of a procedure leaves. -/
def Proc.left {α : Type} (r : EStateM.Result Stop State α) : State :=
  match r with
  | .ok _ s => s
  | .error _ s => s

@[simp] theorem Proc.left_ok {α : Type} (a : α) (s : State) : Proc.left (.ok a s) = s := rfl

@[simp] theorem Proc.left_error {α : Type} (e : Stop) (s : State) :
    Proc.left (.error e s : EStateM.Result Stop State α) = s := rfl

/-- From every state that meets `P`, the procedure leaves a state that `R` relates to it, and that meets `P` again. -/
def Keeps {α : Type} (P : State → Prop) (R : State → State → Prop) (p : Proc α) : Prop :=
  ∀ s, P s → P (Proc.left (p s)) ∧ R s (Proc.left (p s))

/-- What `Keeps` asks of the relation. -/
structure Preorder (R : State → State → Prop) : Prop where
  refl : ∀ s, R s s
  trans : ∀ {s t u}, R s t → R t u → R s u

section
variable {α β : Type} {P : State → Prop} {R : State → State → Prop}

theorem Keeps.pure (hR : Preorder R) (a : α) : Keeps P R (pure a : Proc α) := fun s hs => ⟨hs, hR.refl s⟩

theorem Keeps.get (hR : Preorder R) : Keeps P R (MonadState.get : Proc State) := fun s hs => ⟨hs, hR.refl s⟩

theorem Keeps.raise (hR : Preorder R) (c : Cause) : Keeps P R (raise c : Proc α) := fun s hs => ⟨hs, hR.refl s⟩

theorem Keeps.halt (hR : Preorder R) (c : Fault) : Keeps P R (halt c : Proc α) := fun s hs => ⟨hs, hR.refl s⟩

theorem Keeps.update {f : State → State} (h : ∀ s, P s → P (f s) ∧ R s (f s)) : Keeps P R (update f) := h

theorem Keeps.bind (hR : Preorder R) {p : Proc α} {f : α → Proc β} (hp : Keeps P R p) (hf : ∀ a, Keeps P R (f a)) :
    Keeps P R (p >>= f) := by
  intro s hs
  have h := hp s hs
  rw [Proc.bind_run]
  cases hps : p s with
  | ok a s' =>
    rw [hps] at h
    exact ⟨(hf a s' h.1).1, hR.trans h.2 (hf a s' h.1).2⟩
  | error e s' => rw [hps] at h; exact h

/-- A sequence after `get`: the rest is run on the very state it is given. -/
theorem Keeps.bind_get (f : State → Proc β)
    (hf : ∀ s, P s → P (Proc.left (f s s)) ∧ R s (Proc.left (f s s))) : Keeps P R (MonadState.get >>= f) :=
  fun s hs => hf s hs

theorem Keeps.ite {c : Prop} [Decidable c] {p q : Proc α} (hp : c → Keeps P R p) (hq : ¬c → Keeps P R q) :
    Keeps P R (if c then p else q) := by
  split
  · exact hp ‹_›
  · exact hq ‹_›

theorem Keeps.ok {p : Proc α} (h : Keeps P R p) {s t : State} {a : α} (hs : P s) (he : p s = .ok a t) :
    P t ∧ R s t := by
  have := h s hs
  rwa [he] at this

theorem Keeps.error {p : Proc α} (h : Keeps P R p) {s t : State} {e : Stop} (hs : P s) (he : p s = .error e t) :
    P t ∧ R s t := by
  have := h s hs
  rwa [he] at this

end

end Sys2Proof.Machine
end

