-- ==== Sys2Proof/Laws/Memory.lean ====
section
/-!
SUPPORT. The laws of the two memories: what a read gives after a write, and that every memory operation keeps the
canonical form.
-/

namespace Sys2Proof.Machine

/-! ## Reading and writing -/

/-- A read after a write: the byte written at its address, what was there before elsewhere. -/
theorem Memory.get_put (m : Memory) (a : Nat) (b : Byte) (x : Nat) :
    Memory.get (Memory.put m a b) x = if x = a then some b else Memory.get m x := by
  induction m with
  | nil =>
    simp only [Memory.put, Memory.get, eq_comm (a := a)]
  | cons c m ih =>
    obtain ⟨k, d⟩ := c
    simp only [Memory.put]
    split
    · simp only [Memory.get, eq_comm (a := a)]
    · split
      · subst k
        simp only [Memory.get, eq_comm (a := a)]
        split <;> rfl
      · simp only [Memory.get, ih]
        split
        · subst k
          rw [if_neg (by omega)]
        · rfl

theorem Memory.mem_put {m : Memory} {a : Nat} {b : Byte} {c : Host.Cell} (h : c ∈ Memory.put m a b) :
    c = (a, b) ∨ c ∈ m := by
  induction m with
  | nil => simpa [Memory.put] using h
  | cons d m ih =>
    obtain ⟨k, e⟩ := d
    simp only [Memory.put] at h
    split at h
    · simpa using h
    · split at h
      · rcases List.mem_cons.1 h with h | h
        · exact .inl h
        · exact .inr (List.mem_cons_of_mem _ h)
      · rcases List.mem_cons.1 h with h | h
        · exact .inr (h ▸ List.mem_cons_self)
        · exact (ih h).imp_right (List.mem_cons_of_mem _)

/-- A write keeps the canonical form. -/
theorem Memory.wf_put {m : Memory} (h : Memory.wf m) (a : Nat) (b : Byte) : Memory.wf (Memory.put m a b) := by
  induction m with
  | nil => simp [Memory.put, Memory.wf]
  | cons c m ih =>
    obtain ⟨k, d⟩ := c
    obtain ⟨h1, h2⟩ := List.pairwise_cons.1 h
    simp only [Memory.put]
    split
    · rename_i hak
      refine List.pairwise_cons.2 ⟨fun y hy => ?_, h⟩
      rcases List.mem_cons.1 hy with hy | hy
      · rw [hy]; exact hak
      · exact Nat.lt_trans hak (h1 y hy)
    · split
      · subst k
        exact List.pairwise_cons.2 ⟨h1, h2⟩
      · refine List.pairwise_cons.2 ⟨fun y hy => ?_, ih h2⟩
        rcases Memory.mem_put hy with hy | hy
        · rw [hy]; change k < a; omega
        · exact h1 y hy

/-- What is not listed reads as nothing. -/
theorem Memory.get_eq_none {m : Memory} {x : Nat} (h : ∀ c ∈ m, c.1 ≠ x) : Memory.get m x = none := by
  induction m with
  | nil => rfl
  | cons c m ih =>
    rw [Memory.get, if_neg (h c List.mem_cons_self)]
    exact ih fun d hd => h d (List.mem_cons_of_mem _ hd)

/-- What is read is listed. -/
theorem Memory.mem_of_get {m : Memory} {x : Nat} {b : Byte} (h : Memory.get m x = some b) : (x, b) ∈ m := by
  induction m with
  | nil => simp [Memory.get] at h
  | cons c m ih =>
    obtain ⟨k, d⟩ := c
    simp only [Memory.get] at h
    split at h
    · rename_i hk
      simp only [Option.some.injEq] at h
      simp [hk, h]
    · exact List.mem_cons_of_mem _ (ih h)

/-! ## A loaded byte sequence -/

theorem Memory.mem_ofBytes {a : Nat} {bs : List Byte} {c : Host.Cell} (h : c ∈ Memory.ofBytes a bs) :
    a ≤ c.1 ∧ c.1 < a + bs.length ∧ c.2 ≠ 0 := by
  induction bs generalizing a with
  | nil => simp [Memory.ofBytes] at h
  | cons b bs ih =>
    simp only [Memory.ofBytes] at h
    split at h
    · have := ih h
      exact ⟨by omega, by simp only [List.length_cons]; omega, this.2.2⟩
    · rename_i hb
      rcases List.mem_cons.1 h with rfl | h
      · exact ⟨Nat.le_refl _, by simp, hb⟩
      · have := ih h
        exact ⟨by omega, by simp only [List.length_cons]; omega, this.2.2⟩

/-- A loaded sequence is in canonical form. -/
theorem Memory.wf_ofBytes (a : Nat) (bs : List Byte) : Memory.wf (Memory.ofBytes a bs) := by
  induction bs generalizing a with
  | nil => simp [Memory.ofBytes, Memory.wf]
  | cons b bs ih =>
    simp only [Memory.ofBytes]
    split
    · exact ih _
    · exact List.pairwise_cons.2 ⟨fun y hy => (Memory.mem_ofBytes hy).1, ih _⟩

/-- A loaded sequence reads back: an address below its end holds its byte, 0 if it is not listed. -/
theorem Memory.get_ofBytes (a i : Nat) (bs : List Byte) :
    (Memory.get (Memory.ofBytes a bs) (a + i)).getD 0 = bs.getD i 0 := by
  induction bs generalizing a i with
  | nil => simp [Memory.ofBytes, Memory.get]
  | cons b bs ih =>
    simp only [Memory.ofBytes]
    cases i with
    | zero =>
      split
      · rename_i hb
        rw [Memory.get_eq_none fun c hc => by have := (Memory.mem_ofBytes hc).1; omega]
        simp [hb]
      · simp [Memory.get]
    | succ i =>
      have hi : a + (i + 1) = a + 1 + i := by omega
      split
      · rw [hi, ih]; simp
      · rw [Memory.get, if_neg (by omega), hi, ih]; simp

/-- The byte of STORE at an address, after a load. -/
theorem State.storeByte_of_store {s : State} {bs : List Byte} (h : s.store = Memory.ofBytes 0 bs) (i : Nat) :
    s.storeByte i = bs.getD i 0 := by
  have := Memory.get_ofBytes 0 i bs
  rw [Nat.zero_add] at this
  rw [State.storeByte, h, this]

@[simp] theorem State.storeBytes_length (s : State) (a n : Nat) : (s.storeBytes a n).length = n := by
  simp [State.storeBytes]

@[simp] theorem State.storeBytes_getElem (s : State) (a n i : Nat) (h : i < (s.storeBytes a n).length) :
    (s.storeBytes a n)[i] = s.storeByte (a + i) := by
  simp [State.storeBytes]

/-- The reset state's memories are in canonical form. -/
theorem State.reset_memory_wf : State.reset.storeWf ∧ State.reset.windowWf := by
  constructor <;> exact ⟨List.Pairwise.nil, by intro c hc; cases hc⟩

end Sys2Proof.Machine
end

