-- ==== Sys2Proof/Laws/Ops.lean ====
section
/-!
SUPPORT. One lemma for each operation of Machine/Ops.lean that says all it can do: the accesses to STORE and WINDOW,
the writes of the cursors, and how a command, an observation and an element become an outcome.
-/

namespace Sys2Proof.Machine

/-! ## The cursors -/

theorem State.byteOff_lt (s : State) : s.byteOff < 4294967296 := s.byteOffset.isLt

theorem State.bitOff_lt (s : State) : s.bitOff < 16 := s.bitOffset.isLt

@[simp] theorem State.ofNat_byteOff (s : State) : BitVec.ofNat 32 s.byteOff = s.byteOffset := by
  simp [State.byteOff]

@[simp] theorem State.ofNat_bitOff (s : State) : BitVec.ofNat 4 s.bitOff = s.bitOffset := by
  simp [State.bitOff]

@[simp] theorem State.withCursor_self (s : State) : s.withCursor s.byteOff s.bitOff = s := by
  simp [State.withCursor]

@[simp] theorem State.withCursor_withCursor (s : State) (b k b' k' : Nat) :
    (s.withCursor b k).withCursor b' k' = s.withCursor b' k' := rfl

theorem State.withCursor_byteOff (s : State) {b : Nat} (k : Nat) (h : b < 4294967296) :
    (s.withCursor b k).byteOff = b := by
  simp only [State.byteOff, State.withCursor, BitVec.toNat_ofNat]
  exact Nat.mod_eq_of_lt h

theorem State.withCursor_bitOff (s : State) (b : Nat) {k : Nat} (h : k < 16) : (s.withCursor b k).bitOff = k := by
  simp only [State.bitOff, State.withCursor, BitVec.toNat_ofNat]
  exact Nat.mod_eq_of_lt h

theorem writeCursor_of_lt {b : Nat} (k : Nat) (s : State) (h : b < 4294967296) :
    writeCursor b k s = .ok () (s.withCursor b k) := by
  simp only [writeCursor, addressLimit, if_pos h]

theorem writeCursor_of_le {b : Nat} (k : Nat) (s : State) (h : 4294967296 ≤ b) :
    writeCursor b k s = .error (.raise .badOperand) s := by
  simp only [writeCursor, addressLimit, if_neg (Nat.not_lt.2 h)]

/-- All that a write of the cursors can do (41_buffer.md R89). -/
theorem writeCursor_cases (b k : Nat) (s : State) :
    (b < 4294967296 ∧ writeCursor b k s = .ok () (s.withCursor b k)) ∨
      (4294967296 ≤ b ∧ writeCursor b k s = .error (.raise .badOperand) s) := by
  by_cases h : b < 4294967296
  · exact .inl ⟨h, writeCursor_of_lt k s h⟩
  · exact .inr ⟨Nat.not_lt.1 h, writeCursor_of_le k s (Nat.not_lt.1 h)⟩

theorem writeByteOffset_run (b : Nat) (s : State) : writeByteOffset b s = writeCursor b s.bitOff s := rfl

/-! ## STORE -/

theorem memRead_of_le {a n : Nat} {s : State} (h : a + n ≤ s.storeLen.toNat) :
    memRead a n s = .ok (s.storeBytes a n) s := if_pos h

theorem memRead_of_lt {a n : Nat} {s : State} (h : s.storeLen.toNat < a + n) :
    memRead a n s = .error (.raise .readPastEnd) s := if_neg (Nat.not_le.2 h)

/-- ReadRaw(n) within STORE (41_buffer.md R94). -/
theorem readRaw_of_le {n : Nat} {s : State} (h : s.byteOff + n ≤ s.storeLen.toNat) :
    readRaw n s = .ok (s.storeBytes s.byteOff n) (s.withCursor (s.byteOff + n) s.bitOff) := by
  have hlt : s.byteOff + n < 4294967296 := Nat.lt_of_le_of_lt h s.storeLen.isLt
  rw [readRaw, Proc.bind_get, Proc.bind_of_ok (memRead_of_le h),
    Proc.bind_of_ok ((writeByteOffset_run _ _).trans (writeCursor_of_lt _ _ hlt))]
  rfl

/-- ReadRaw(n) past the end of STORE moves nothing (41_buffer.md R94). -/
theorem readRaw_of_lt {n : Nat} {s : State} (h : s.storeLen.toNat < s.byteOff + n) :
    readRaw n s = .error (.raise .readPastEnd) s := by
  rw [readRaw, Proc.bind_get, Proc.bind_of_error (memRead_of_lt h)]

/-- All that ReadRaw(n) can do. -/
theorem readRaw_cases (n : Nat) (s : State) :
    (s.byteOff + n ≤ s.storeLen.toNat ∧
      readRaw n s = .ok (s.storeBytes s.byteOff n) (s.withCursor (s.byteOff + n) s.bitOff)) ∨
    (s.storeLen.toNat < s.byteOff + n ∧ readRaw n s = .error (.raise .readPastEnd) s) := by
  by_cases h : s.byteOff + n ≤ s.storeLen.toNat
  · exact .inl ⟨h, readRaw_of_le h⟩
  · exact .inr ⟨Nat.not_le.1 h, readRaw_of_lt (Nat.not_le.1 h)⟩

theorem readByte_of_lt {s : State} (h : s.byteOff < s.storeLen.toNat) :
    readByte s = .ok (s.storeByte s.byteOff) (s.withCursor (s.byteOff + 1) s.bitOff) := by
  rw [readByte, Proc.bind_of_ok (readRaw_of_le h)]
  rfl

theorem readByte_of_le {s : State} (h : s.storeLen.toNat ≤ s.byteOff) :
    readByte s = .error (.raise .readPastEnd) s := by
  rw [readByte, Proc.bind_of_error (readRaw_of_lt (Nat.lt_succ_of_le h))]

/-! ## WINDOW -/

theorem winRead_of_some {s : State} {i : Nat} {b : Byte} (h : s.windowByte i = some b) : winRead i s = .ok b s := by
  rw [winRead, h]

theorem winRead_of_none {s : State} {i : Nat} (h : s.windowByte i = none) :
    winRead i s = .error (.raise .unwrittenWindowRead) s := by
  rw [winRead, h]

theorem winWrite_of_lt {i : Nat} (v : Byte) {s : State} (h : i < 65536) :
    winWrite i v s = .ok () { s with window := Memory.put s.window i v } := if_pos h

theorem winWrite_of_le {i : Nat} (v : Byte) {s : State} (h : 65536 ≤ i) :
    winWrite i v s = .error (.halt .windowAddress) s := if_neg (Nat.not_lt.2 h)

/-! ## Outcomes -/

/-- A command in FAULTED (60_exceptions.md R179). -/
theorem command_of_faulted (op : BitVec 8) (p : Proc Result) {s : State} (h : s.faulted = true) :
    command op p s = .next s.refuse := by
  rw [command, if_pos h]

/-- A command whose procedure returns. -/
theorem command_of_ok {op : BitVec 8} {p : Proc Result} {s t : State} {r : Result} (h : s.faulted = false)
    (hp : p (s.begin op) = .ok r t) : command op p s = .next (t.answer (.ok r)) := by
  rw [command, if_neg (by simp [h]), hp]

/-- A command whose procedure raises. -/
theorem command_of_raise {op : BitVec 8} {p : Proc Result} {s t : State} {c : Cause} (h : s.faulted = false)
    (hp : p (s.begin op) = .error (.raise c) t) : command op p s = .next (faultEntry c t) := by
  rw [command, if_neg (by simp [h]), hp]

/-- All the next states of a command. -/
theorem command_eq_next {op : BitVec 8} {p : Proc Result} {s t : State} (h : command op p s = .next t) :
    (s.faulted = true ∧ t = s.refuse) ∨
    (s.faulted = false ∧ ∃ r u, p (s.begin op) = .ok r u ∧ t = u.answer (.ok r)) ∨
    (s.faulted = false ∧ ∃ c u, p (s.begin op) = .error (.raise c) u ∧ t = faultEntry c u) := by
  unfold command at h
  split at h
  · exact .inl ⟨‹_›, by simpa using h.symm⟩
  · rename_i hf
    have hf : s.faulted = false := by simpa using hf
    split at h
    · exact .inr (.inl ⟨hf, _, _, ‹_›, by simpa using h.symm⟩)
    · exact .inr (.inr ⟨hf, _, _, ‹_›, by simpa using h.symm⟩)
    · cases h

/-- An observation in IDLE is a command. -/
theorem observation_of_idle (op : BitVec 8) (p : Proc Result) {s : State} (h : s.faulted = false) :
    observation op p s = command op p s := by
  rw [observation, if_neg (by simp [h])]

/-- All the next states of an observation (60_exceptions.md R179). -/
theorem observation_eq_next {op : BitVec 8} {p : Proc Result} {s t : State} (h : observation op p s = .next t) :
    (∃ r u, p (s.begin op) = .ok r u ∧ t = u.answer (.ok r)) ∨
    (s.faulted = true ∧ t = s.refuse) ∨
    (s.faulted = false ∧ ∃ c u, p (s.begin op) = .error (.raise c) u ∧ t = faultEntry c u) := by
  unfold observation at h
  split at h
  · split at h
    · exact .inl ⟨_, _, ‹_›, by simpa using h.symm⟩
    · exact .inr (.inl ⟨‹_›, by simpa using h.symm⟩)
    · cases h
  · rcases command_eq_next h with h | h | h
    · exact .inr (.inl h)
    · exact .inl h.2
    · exact .inr (.inr h)

/-- An element in FAULTED. -/
theorem element_of_faulted (p : Proc Unit) {s : State} (h : s.faulted = true) : element p s = .next s.refuse := by
  rw [element, if_pos h]

/-- An element whose procedure returns. -/
theorem element_of_ok {p : Proc Unit} {s t : State} (h : s.faulted = false) (hp : p s = .ok () t) :
    element p s = .next t := by
  rw [element, if_neg (by simp [h]), hp]

/-- An element whose procedure raises. -/
theorem element_of_raise {p : Proc Unit} {s t : State} {c : Cause} (h : s.faulted = false)
    (hp : p s = .error (.raise c) t) : element p s = .next (faultEntry c t) := by
  rw [element, if_neg (by simp [h]), hp]

/-- All the next states of an element. -/
theorem element_eq_next {p : Proc Unit} {s t : State} (h : element p s = .next t) :
    (s.faulted = true ∧ t = s.refuse) ∨
    (s.faulted = false ∧ p s = .ok () t) ∨
    (s.faulted = false ∧ ∃ c u, p s = .error (.raise c) u ∧ t = faultEntry c u) := by
  unfold element at h
  split at h
  · exact .inl ⟨‹_›, by simpa using h.symm⟩
  · rename_i hf
    have hf : s.faulted = false := by simpa using hf
    split at h
    · rename_i hp
      simp only [Host.Outcome.next.injEq] at h
      subst h
      exact .inr (.inl ⟨hf, hp⟩)
    · exact .inr (.inr ⟨hf, _, _, ‹_›, by simpa using h.symm⟩)
    · cases h

end Sys2Proof.Machine
end

