-- ==== Sys2Proof/Laws/Bits.lean ====
section
/-!
SUPPORT. The bit reads against the bits of the stream: a scan gives the stream's bits, most significant first, and
moves the cursors by whole frames; where a frame is missing it stops at that frame. Then ReadBits, PeekBits, Align and
SetBitPos, one lemma each.
-/

namespace Sys2Proof.Machine

open Sys2Proof.Safety

/-! ## Bit lists as numbers -/

@[simp] theorem ofBits_nil : ofBits [] = 0 := rfl

theorem ofBits_foldl (l : List Bool) (r : Nat) :
    l.foldl (fun r b => 2 * r + b.toNat) r = r * 2 ^ l.length + ofBits l := by
  induction l generalizing r with
  | nil => simp [ofBits]
  | cons b l ih =>
    rw [List.foldl_cons, ih, ofBits, ofBits, List.foldl_cons, ih (2 * 0 + b.toNat), List.length_cons, Nat.pow_succ,
      ofBits]
    ring

theorem ofBits_append (l m : List Bool) : ofBits (l ++ m) = ofBits l * 2 ^ m.length + ofBits m := by
  rw [ofBits, List.foldl_append, ofBits_foldl]
  rfl

theorem ofBits_cons (b : Bool) (l : List Bool) : ofBits (b :: l) = b.toNat * 2 ^ l.length + ofBits l := by
  rw [← List.singleton_append, ofBits_append]
  simp [ofBits]

theorem ofBits_lt (l : List Bool) : ofBits l < 2 ^ l.length := by
  induction l with
  | nil => simp
  | cons b l ih =>
    rw [ofBits_cons, List.length_cons, Nat.pow_succ]
    cases b <;> simp <;> omega

@[simp] theorem bitsOf_length (w v : Nat) : (bitsOf w v).length = w := by
  induction w with
  | zero => rfl
  | succ w ih => simp [bitsOf, ih]

/-- The bits of a number are the bits of that number. -/
theorem ofBits_bitsOf (w v : Nat) : ofBits (bitsOf w v) = v % 2 ^ w := by
  induction w with
  | zero => simp [bitsOf, Nat.mod_one]
  | succ w ih =>
    rw [bitsOf, ofBits_cons, ih, bitsOf_length, Nat.pow_succ, Nat.mod_mul, Nat.testBit_eq_decide_div_mod_eq]
    have := Nat.mod_two_eq_zero_or_one (v / 2 ^ w)
    rcases this with h | h
    · simp [h]
    · simp [h]
      ring

/-- A field of a 16-bit frame is its bits from bit 15 - K down (20_memory.md R50). -/
theorem frameField_eq (w K k : Nat) (h : K + k ≤ 16) :
    w / 2 ^ (16 - K - k) % 2 ^ k = ofBits ((List.range k).map fun j => w.testBit (15 - (K + j))) := by
  induction k with
  | zero => simp [Nat.mod_one]
  | succ k ih =>
    rw [List.range_succ, List.map_append, ofBits_append, ← ih (by omega)]
    have h1 : 16 - K - k = 16 - K - (k + 1) + 1 := by omega
    have h2 : 15 - (K + k) = 16 - K - (k + 1) := by omega
    rw [h1, Nat.pow_succ 2 (16 - K - (k + 1)), ← Nat.div_div_eq_div_mul, Nat.pow_succ, Nat.mul_comm (2 ^ k) 2, Nat.mod_mul,
      List.map_singleton, h2, Nat.testBit_eq_decide_div_mod_eq]
    have := Nat.mod_two_eq_zero_or_one (w / 2 ^ (16 - K - (k + 1)))
    rcases this with h | h <;> simp [ofBits, h] <;> ring

/-! ## The scan -/

/-- Bit `j` of the stream counted from given cursors. -/
def streamBitAt (s : State) (B K j : Nat) : Bool :=
  (s.frame16 (B + 2 * ((K + j) / 16))).testBit (15 - (K + j) % 16)

theorem streamBitAt_cursors (s : State) (j : Nat) : streamBitAt s s.byteOff s.bitOff j = streamBit s j := rfl

theorem streamBitAt_next (s : State) (B K k j : Nat) (h : K + k = 16) :
    streamBitAt s B K (k + j) = streamBitAt s (B + 2) 0 j := by
  have h1 : K + (k + j) = 16 + j := by omega
  unfold streamBitAt
  rw [h1, Nat.add_mod_left, Nat.add_div_left _ (by omega), Nat.zero_add]
  congr 2
  omega

theorem frame_eq_streamBitAt (s : State) (B K k : Nat) (h : K + k ≤ 16) :
    s.frame16 B / 2 ^ (16 - K - k) % 2 ^ k = ofBits ((List.range k).map (streamBitAt s B K)) := by
  rw [frameField_eq _ _ _ h]
  congr 1
  refine List.map_congr_left fun j hj => ?_
  have hj := List.mem_range.1 hj
  unfold streamBitAt
  rw [Nat.div_eq_of_lt (show K + j < 16 by omega), Nat.mod_eq_of_lt (show K + j < 16 by omega)]
  simp

theorem scanBits_zero (s : State) (n B K r : Nat) : scanBits s n B K 0 r = .done r B K := by
  cases n <;> simp [scanBits]

/-- A scan of bits that are all in STORE gives them, and the cursors after them. -/
theorem scanBits_done (s : State) (n B K left r : Nat) (hn : left ≤ n) (hK : K < 16)
    (h : left = 0 ∨ B + 2 * ((K + left + 15) / 16) ≤ s.storeLen.toNat) :
    scanBits s n B K left r =
      .done (r + ofBits ((List.range left).map (streamBitAt s B K))) (B + 2 * ((K + left) / 16)) ((K + left) % 16) := by
  induction n generalizing B K left r with
  | zero =>
    obtain rfl : left = 0 := by omega
    simp [scanBits, Nat.div_eq_of_lt hK, Nat.mod_eq_of_lt hK]
  | succ n ih =>
    by_cases h0 : left = 0
    · subst h0
      simp [scanBits_zero, Nat.div_eq_of_lt hK, Nat.mod_eq_of_lt hK]
    · have hB : B + 2 * ((K + left + 15) / 16) ≤ s.storeLen.toNat := h.resolve_left h0
      have hge : 1 ≤ (K + left + 15) / 16 := by omega
      rw [scanBits, if_neg h0, if_neg (by omega)]
      by_cases hk : left ≤ 16 - K
      · simp only [Nat.min_eq_left hk]
        rw [frame_eq_streamBitAt s B K left (by omega), Nat.sub_self, Nat.pow_zero, Nat.mul_one]
        split
        · rename_i hkk
          rw [scanBits_zero, hkk]
        · rw [scanBits_zero, Nat.div_eq_of_lt (by omega), Nat.mod_eq_of_lt (by omega)]
          simp
      · simp only [Nat.min_eq_right (Nat.le_of_lt (Nat.not_le.1 hk))]
        have hfull : K + (16 - K) = 16 := by omega
        rw [if_pos hfull, ih (B + 2) 0 (left - (16 - K)) _ (by omega) (by omega) (by right; omega),
          frame_eq_streamBitAt s B K (16 - K) (by omega)]
        have hsplit : List.range left = List.range (16 - K) ++ (List.range (left - (16 - K))).map (16 - K + ·) := by
          rw [← List.range_add]
          congr 1
          omega
        rw [hsplit, List.map_append, ofBits_append, List.map_map]
        have hmap : ((List.range (left - (16 - K))).map (streamBitAt s B K ∘ (16 - K + ·)))
            = (List.range (left - (16 - K))).map (streamBitAt s (B + 2) 0) :=
          List.map_congr_left fun j _ => streamBitAt_next s B K (16 - K) j hfull
        rw [hmap]
        simp only [List.length_map, List.length_range, BitScan.done.injEq]
        refine ⟨by rw [Nat.add_assoc], ?_, ?_⟩ <;> omega

/-- A scan that meets a missing frame stops at it: the frames before it are passed. -/
theorem scanBits_short (s : State) (n B K left r : Nat) (hn : left ≤ n) (hK : K < 16) (h0 : left ≠ 0)
    (h : s.storeLen.toNat < B + 2 * ((K + left + 15) / 16)) :
    scanBits s n B K left r =
      .short (B + 2 * ((s.storeLen.toNat - B) / 2)) (if s.storeLen.toNat < B + 2 then K else 0) := by
  induction n generalizing B K left r with
  | zero => omega
  | succ n ih =>
    rw [scanBits, if_neg h0]
    by_cases hB : s.storeLen.toNat < B + 2
    · rw [if_pos hB, if_pos hB, Nat.div_eq_of_lt (by omega)]
      rfl
    · rw [if_neg hB, if_neg hB]
      have hk : ¬left ≤ 16 - K := by
        intro hk
        have : (K + left + 15) / 16 ≤ 1 := by omega
        omega
      simp only [Nat.min_eq_right (Nat.le_of_lt (Nat.not_le.1 hk))]
      rw [if_pos (by omega), ih (B + 2) 0 (left - (16 - K)) _ (by omega) (by omega) (by omega) (by omega), ite_self]
      congr 1
      omega

/-! ## ReadBits, PeekBits -/

theorem advanced_eq_withCursor (s : State) (n : Nat) :
    advanced s n = s.withCursor (s.byteOff + 2 * ((s.bitOff + n) / 16)) ((s.bitOff + n) % 16) := rfl

theorem framesPresent_lt {s : State} {n : Nat} (h : framesPresent s n) :
    s.byteOff + 2 * ((s.bitOff + n) / 16) < 4294967296 := by
  have := s.storeLen.isLt
  have := s.byteOff_lt
  have := s.bitOff_lt
  rcases h with h | h <;> omega

/-- ReadBits(n) of bits that are in STORE (41_buffer.md R90, 20_memory.md R51). -/
theorem readBits_of_present {n : Nat} {s : State} (h : framesPresent s n) :
    readBits n s = .ok (ofBits (streamBits s n)) (advanced s n) := by
  rw [readBits, Proc.bind_get, scanBits_done s n _ _ n 0 (Nat.le_refl n) s.bitOff_lt h]
  simp only [Nat.zero_add]
  rw [Proc.bind_of_ok (writeCursor_of_lt _ _ (framesPresent_lt h))]
  rfl

/-- ReadBits(n) that meets a missing frame (41_buffer.md R90): the cursors stand at that frame. -/
theorem readBits_of_missing {n : Nat} {s : State} (h : ¬framesPresent s n) :
    readBits n s = .error (.raise .readPastEnd)
      (s.withCursor (s.byteOff + 2 * ((s.storeLen.toNat - s.byteOff) / 2))
        (if s.storeLen.toNat < s.byteOff + 2 then s.bitOff else 0)) := by
  obtain ⟨h0, h⟩ := not_or.1 h
  have := s.storeLen.isLt
  have := s.byteOff_lt
  rw [readBits, Proc.bind_get,
    scanBits_short s n _ _ n 0 (Nat.le_refl n) s.bitOff_lt h0 (Nat.not_le.1 h)]
  simp only []
  rw [Proc.bind_of_ok (writeCursor_of_lt _ _ (by omega))]
  rfl

/-- PeekBits(n) of bits that are in STORE (41_buffer.md R91). -/
theorem peekBits_of_present {n : Nat} {s : State} (h : framesPresent s n) :
    peekBits n s = .ok (ofBits (streamBits s n)) s := by
  rw [peekBits, scanBits_done s n _ _ n 0 (Nat.le_refl n) s.bitOff_lt h]
  simp only [Nat.zero_add]
  rfl

/-- PeekBits(n) that meets a missing frame changes nothing (41_buffer.md R91). -/
theorem peekBits_of_missing {n : Nat} {s : State} (h : ¬framesPresent s n) :
    peekBits n s = .error (.raise .readPastEnd) s := by
  obtain ⟨h0, h⟩ := not_or.1 h
  rw [peekBits, scanBits_short s n _ _ n 0 (Nat.le_refl n) s.bitOff_lt h0 (Nat.not_le.1 h)]

/-- All that PeekBits(n) can do: it changes nothing. -/
theorem peekBits_cases (n : Nat) (s : State) :
    (framesPresent s n ∧ peekBits n s = .ok (ofBits (streamBits s n)) s) ∨
    (¬framesPresent s n ∧ peekBits n s = .error (.raise .readPastEnd) s) := by
  by_cases h : framesPresent s n
  · exact .inl ⟨h, peekBits_of_present h⟩
  · exact .inr ⟨h, peekBits_of_missing h⟩

/-! ## Align, SetBitPos -/

/-- Align() (41_buffer.md R92). -/
theorem alignCursor_run (s : State) :
    alignCursor s = if s.bitOff = 0 then .ok () s else writeCursor (s.byteOff + 2) 0 s := rfl

/-- SetBitPos(v) for a position that is not before the frame at the cursors (41_buffer.md R93). -/
theorem setBitPos_forward (s : State) (n : Nat) :
    setBitPos ((s.bitOff : Int) + n) s
      = writeCursor (s.byteOff + 2 * ((s.bitOff + n) / 16)) ((s.bitOff + n) % 16) s := by
  unfold setBitPos
  congr 1

/-- A symbol is passed where the frames of its bits are in STORE (42_huffman.md R133). -/
theorem passSymbol_of_present {sym len : Nat} {s : State} (h : framesPresent s len) :
    passSymbol sym len s = .ok sym (advanced s len) := by
  rw [passSymbol, Proc.bind_get, Proc.bind_of_ok ((setBitPos_forward s len).trans
    (writeCursor_of_lt _ _ (framesPresent_lt h)))]
  rfl

/-- Fewer bits touch no more frames. -/
theorem framesPresent_mono {s : State} {m n : Nat} (h : framesPresent s n) (hmn : m ≤ n) : framesPresent s m := by
  rcases h with h | h
  · exact .inl (by omega)
  · exact .inr (by omega)

end Sys2Proof.Machine
end

