-- ==== Sys2Proof/Laws/Build.lean ====
section
/-!
SUPPORT. What BuildTable comes to (42_huffman.md R126): the outcome by the two Kraft sums (R127), and the codes it
places, which are the canonical ones (R129). `unitLeaves lens m` are the codes of the lengths 1 to m, placed in units
of 2^-16; both phases of the build place them, each in its own unit.
-/

namespace Sys2Proof.Machine

open Sys2Proof.Safety

/-! ## Kraft sums -/

@[simp] theorem kraft_nil (m : Nat) : kraft m [] = 0 := rfl

theorem kraft_cons (m l : Nat) (ls : List Nat) :
    kraft m (l :: ls) = (if 1 ≤ l ∧ l ≤ m then 2 ^ (16 - l) else 0) + kraft m ls := rfl

theorem kraft_zero (ls : List Nat) : kraft 0 ls = 0 := by
  induction ls with
  | nil => rfl
  | cons l ls ih => rw [kraft_cons, ih, if_neg (by omega)]

theorem kraft_succ (m : Nat) (ls : List Nat) : kraft (m + 1) ls = kraft m ls + ls.count (m + 1) * 2 ^ (15 - m) := by
  induction ls with
  | nil => simp
  | cons l ls ih =>
    rw [kraft_cons, kraft_cons, ih, List.count_cons]
    by_cases h : l = m + 1
    · subst h
      rw [if_pos (by omega), if_neg (by omega), if_pos (beq_self_eq_true _)]
      have : 16 - (m + 1) = 15 - m := by omega
      rw [this]
      ring
    · have h2 : (l == m + 1) = false := by simpa using h
      rw [h2]
      by_cases h1 : 1 ≤ l ∧ l ≤ m
      · rw [if_pos (show 1 ≤ l ∧ l ≤ m + 1 by omega), if_pos h1]
        simp
        ring
      · rw [if_neg (show ¬(1 ≤ l ∧ l ≤ m + 1) by omega), if_neg h1]
        simp

theorem kraft_mono {m n : Nat} (h : m ≤ n) (ls : List Nat) : kraft m ls ≤ kraft n ls := by
  induction ls with
  | nil => exact Nat.le_refl _
  | cons l ls ih =>
    rw [kraft_cons, kraft_cons]
    refine Nat.add_le_add ?_ ih
    split
    · rw [if_pos (by omega)]
    · exact Nat.zero_le _

/-! ## The codes of one length -/

/-- The codes of the symbols of length `len`, the first at position `pos`, one `bm` apart. -/
def symbolLeaves (len bm : Nat) : List Nat → Nat → Nat → List Leaf
  | [], _, _ => []
  | l :: ls, sym, pos =>
    if l = len then ⟨sym, len, pos / bm⟩ :: symbolLeaves len bm ls (sym + 1) (pos + bm)
    else symbolLeaves len bm ls (sym + 1) pos

theorem symbolLeaves_scale (len bm c : Nat) (hc : 0 < c) (ls : List Nat) (sym pos : Nat) :
    symbolLeaves len (bm * c) ls sym (pos * c) = symbolLeaves len bm ls sym pos := by
  induction ls generalizing sym pos with
  | nil => rfl
  | cons l ls ih =>
    simp only [symbolLeaves, Nat.mul_div_mul_right _ _ hc, ← Nat.add_mul, ih]

/-- All that the inner loop of the build can do: every symbol of the length is placed, or there is no room. -/
theorem placeSymbols_eq (mask len bm : Nat) (ls : List Nat) (sym pos : Nat) (t : List Leaf) (hpos : pos ≤ mask) :
    placeSymbols mask len bm ls sym pos t =
      if pos + ls.count len * bm ≤ mask then
        .ok (pos + ls.count len * bm, (symbolLeaves len bm ls sym pos).reverse ++ t)
      else .error .buildOverrun := by
  induction ls generalizing sym pos t with
  | nil => simp [placeSymbols, symbolLeaves, hpos]
  | cons l ls ih =>
    rw [placeSymbols, List.count_cons]
    by_cases h : l = len
    · subst h
      rw [if_pos rfl]
      have hcount : (ls.count l + if (l == l) = true then 1 else 0) * bm = ls.count l * bm + bm := by
        simp [Nat.add_mul]
      rw [hcount]
      by_cases hfull : mask < pos + bm
      · rw [if_pos hfull, if_neg (by omega)]
      · rw [if_neg hfull, ih _ _ _ (by omega)]
        have : pos + bm + ls.count l * bm = pos + (ls.count l * bm + bm) := by omega
        rw [this]
        simp [symbolLeaves]
    · rw [if_neg h, ih _ _ _ hpos]
      simp [symbolLeaves, h]

/-! ## The codes of the lengths 1 to m -/

/-- The codes of the lengths 1 to `m`, placed in units of 2^-16, the last first. -/
def unitLeaves (lens : List Nat) : Nat → List Leaf
  | 0 => []
  | m + 1 => (symbolLeaves (m + 1) (2 ^ (15 - m)) lens 0 (kraft m lens)).reverse ++ unitLeaves lens m

/-- All that `c` turns of the outer loop of the build can do, in a unit of which `α` make `β` times 2^-16. -/
theorem placeLengths_spec (lens : List Nat) (mask α β : Nat) (hα : 0 < α) (hβ : 0 < β)
    (hmask : mask * α = 65536 * β) (c m e pos : Nat) (hc : m + c ≤ 16) (he : c ≤ e + 1)
    (hbm : 0 < c → 2 ^ e * α = 2 ^ (15 - m) * β) (hpos : pos * α = kraft m lens * β) (hk : kraft m lens ≤ 65536) :
    (kraft (m + c) lens ≤ 65536 → ∃ pos', pos' * α = kraft (m + c) lens * β ∧
      placeLengths lens mask c (m + 1) (2 ^ e) pos (unitLeaves lens m) = .ok (pos', unitLeaves lens (m + c))) ∧
    (65536 < kraft (m + c) lens →
      placeLengths lens mask c (m + 1) (2 ^ e) pos (unitLeaves lens m) = .error .buildOverrun) := by
  induction c generalizing m e pos with
  | zero =>
    refine ⟨fun _ => ⟨pos, hpos, rfl⟩, fun h => ?_⟩
    rw [Nat.add_zero] at h
    omega
  | succ c ih =>
    have hbm := hbm (Nat.succ_pos c)
    have hle : pos ≤ mask := by
      refine Nat.le_of_mul_le_mul_right ?_ hα
      rw [hpos, hmask]
      exact Nat.mul_le_mul_right β hk
    have hscaled : (pos + lens.count (m + 1) * 2 ^ e) * α = kraft (m + 1) lens * β := by
      rw [kraft_succ, Nat.add_mul, Nat.add_mul, hpos, Nat.mul_assoc, hbm, Nat.mul_assoc]
    have hiff : pos + lens.count (m + 1) * 2 ^ e ≤ mask ↔ kraft (m + 1) lens ≤ 65536 := by
      constructor
      · intro h
        have := Nat.mul_le_mul_right α h
        rw [hscaled, hmask] at this
        exact Nat.le_of_mul_le_mul_right this hβ
      · intro h
        refine Nat.le_of_mul_le_mul_right ?_ hα
        rw [hscaled, hmask]
        exact Nat.mul_le_mul_right β h
    have hleaves : symbolLeaves (m + 1) (2 ^ e) lens 0 pos
        = symbolLeaves (m + 1) (2 ^ (15 - m)) lens 0 (kraft m lens) := by
      rw [← symbolLeaves_scale _ _ α hα, hbm, hpos, symbolLeaves_scale _ _ β hβ]
    have hidx : m + (c + 1) = m + 1 + c := by omega
    rw [placeLengths, placeSymbols_eq _ _ _ _ _ _ _ hle, hidx]
    by_cases h1 : kraft (m + 1) lens ≤ 65536
    · rw [if_pos (hiff.2 h1), hleaves]
      simp only []
      by_cases hc0 : c = 0
      · subst hc0
        exact ⟨fun _ => ⟨_, hscaled, rfl⟩, fun h => absurd h (by rw [Nat.add_zero]; omega)⟩
      · obtain ⟨e, rfl⟩ : ∃ e', e = e' + 1 := ⟨e - 1, by omega⟩
        have hhalf : 2 ^ (e + 1) / 2 = 2 ^ e := by rw [Nat.pow_succ, Nat.mul_div_cancel _ (by omega)]
        rw [hhalf]
        refine ih (m + 1) e _ (by omega) (by omega) (fun _ => ?_) hscaled h1
        have h15 : 15 - m = 15 - (m + 1) + 1 := by omega
        rw [h15, Nat.pow_succ, Nat.pow_succ, Nat.mul_assoc, Nat.mul_comm 2 α, ← Nat.mul_assoc,
          Nat.mul_assoc _ 2 β, Nat.mul_comm 2 β, ← Nat.mul_assoc] at hbm
        exact Nat.eq_of_mul_eq_mul_right (by omega) hbm
    · rw [if_neg (fun h => h1 (hiff.1 h))]
      refine ⟨fun h => absurd (Nat.le_trans (kraft_mono (by omega) lens) h) h1, fun _ => rfl⟩

/-! ## The outcome -/

/-- The outcome of BuildTable by the Kraft sums (42_huffman.md R127), with the codes it has placed. -/
theorem buildTable_eq (accept : Bool) (tb : Nat) (htb : 1 ≤ tb ∧ tb ≤ 16) (lens : List Nat) :
    buildTable accept tb lens =
      if 65536 < kraft tb lens then .error .buildOverrun
      else if kraft tb lens = 65536 then .ok (unitLeaves lens tb)
      else if 65536 < kraft 16 lens then .error .buildOverrun
      else if kraft 16 lens = 65536 then .ok (unitLeaves lens 16)
      else if accept && lens.all (· == 0) then .ok (unitLeaves lens 16)
      else .error .buildIncomplete := by
  have hpow : 2 ^ tb * 2 ^ (16 - tb) = 65536 := by
    rw [← Nat.pow_add, Nat.add_sub_cancel' htb.2]
  have hbm : 2 ^ (tb - 1) * 2 ^ (16 - tb) = 2 ^ (15 - 0) * 1 := by
    rw [← Nat.pow_add, Nat.mul_one]
    congr 1
    omega
  have p1 := placeLengths_spec lens (2 ^ tb) (2 ^ (16 - tb)) 1 (Nat.two_pow_pos _) Nat.one_pos (by omega) tb 0 (tb - 1) 0
    (by omega) (by omega) (fun _ => hbm) (by rw [kraft_zero]; omega) (by rw [kraft_zero]; omega)
  rw [Nat.zero_add, Nat.zero_add] at p1
  rw [buildTable]
  by_cases h1 : 65536 < kraft tb lens
  · have h2 := p1.2 h1
    simp only [unitLeaves] at h2
    rw [if_pos h1, h2]
  · obtain ⟨pos, hpos, hp⟩ := p1.1 (Nat.not_lt.1 h1)
    simp only [unitLeaves] at hp
    rw [if_neg h1, hp]
    simp only []
    rw [Nat.mul_one] at hpos
    have hfull : pos = 2 ^ tb ↔ kraft tb lens = 65536 := by
      rw [← hpos, ← hpow]
      exact (Nat.mul_left_inj (Nat.two_pow_pos _).ne').symm
    by_cases h2 : kraft tb lens = 65536
    · rw [if_pos (hfull.2 h2), if_pos h2]
    · rw [if_neg (fun h => h2 (hfull.1 h)), if_neg h2]
      have hpos2 : pos * 2 ^ 16 * 1 = kraft tb lens * 2 ^ tb := by
        rw [Nat.mul_one, ← hpos, Nat.mul_assoc, ← Nat.pow_add, Nat.sub_add_cancel htb.2]
      have hbm2 : 0 < 16 - tb → 2 ^ 15 * 1 = 2 ^ (15 - tb) * 2 ^ tb := by
        intro h
        rw [Nat.mul_one, ← Nat.pow_add]
        congr 1
        omega
      have hmask : 2 ^ tb * 2 ^ 16 * 1 = 65536 * 2 ^ tb := by
        rw [Nat.mul_one, Nat.mul_comm, show 2 ^ 16 = 65536 by norm_num]
      have p2 := placeLengths_spec lens (2 ^ tb * 2 ^ 16) 1 (2 ^ tb) Nat.one_pos (Nat.two_pow_pos _) hmask
        (16 - tb) tb 15 (pos * 2 ^ 16) (by omega) (by omega) hbm2 hpos2 (Nat.not_lt.1 h1)
      rw [Nat.add_sub_cancel' htb.2] at p2
      by_cases h3 : 65536 < kraft 16 lens
      · rw [if_pos h3, p2.2 h3]
      · obtain ⟨pos', hpos', hp'⟩ := p2.1 (Nat.not_lt.1 h3)
        rw [if_neg h3, hp']
        simp only []
        have hfull' : pos' = 2 ^ tb * 2 ^ 16 ↔ kraft 16 lens = 65536 := by
          rw [Nat.mul_one] at hpos'
          rw [hpos', Nat.mul_comm]
          exact Nat.mul_right_inj (Nat.two_pow_pos _).ne'
        by_cases h4 : kraft 16 lens = 65536
        · rw [if_pos (hfull'.2 h4), if_pos h4]
        · rw [if_neg (fun h => h4 (hfull'.1 h)), if_neg h4]

end Sys2Proof.Machine
end

