-- ==== Sys2Proof/Laws/Codes.lean ====
section
/-!
SUPPORT. The codes a build places are the canonical code of the lengths (42_huffman.md R129): a prefix code, complete
when the Kraft sum is 1; and a table of such codes decodes them (R130, R132, R134).
-/

namespace Sys2Proof.Machine

open Sys2Proof.Safety

/-! ## Positions -/

theorem spaceBefore_eq (m a : Nat) (ls : List Nat) (b : Nat) :
    spaceBefore (m + 1) a ls b = kraft m ls + 2 ^ (15 - m) * (ls.take (a - b)).count (m + 1) := by
  induction ls generalizing b with
  | nil => simp [spaceBefore]
  | cons l ls ih =>
    rw [spaceBefore, ih, kraft_cons]
    by_cases hab : b < a
    · have : a - b = a - (b + 1) + 1 := by omega
      rw [this, List.take_succ_cons, List.count_cons]
      by_cases h : l = m + 1
      · subst h
        have h16 : 16 - (m + 1) = 15 - m := by omega
        rw [if_pos (by simp [codedBefore, hab]), if_neg (by omega), if_pos (beq_self_eq_true _), h16]
        ring
      · have h2 : (l == m + 1) = false := by simpa using h
        rw [h2]
        by_cases h1 : 1 ≤ l ∧ l ≤ m
        · rw [if_pos (by simp [codedBefore]; omega), if_pos h1]
          simp
          ring
        · rw [if_neg (by simp [codedBefore]; omega), if_neg h1]
          simp
    · have h0 : a - b = 0 := by omega
      have h1 : a - (b + 1) = 0 := by omega
      rw [h0, h1]
      by_cases h1 : 1 ≤ l ∧ l ≤ m
      · rw [if_pos (by simp [codedBefore]; omega), if_pos h1]
        simp
      · rw [if_neg (by simp [codedBefore]; omega), if_neg h1]
        simp

/-- Where the code of symbol `a` begins, in units of 2^-16. -/
def codeStart (lens : List Nat) (a : Nat) : Nat :=
  spaceBefore (lens.getD a 0) a lens 0

theorem codeStart_eq {lens : List Nat} {a m : Nat} (h : lens.getD a 0 = m + 1) :
    codeStart lens a = kraft m lens + 2 ^ (15 - m) * (lens.take a).count (m + 1) := by
  rw [codeStart, h, spaceBefore_eq, Nat.sub_zero]

theorem kraft_dvd (m : Nat) (lens : List Nat) : 2 ^ (16 - m) ∣ kraft m lens := by
  induction lens with
  | nil => simp
  | cons l ls ih =>
    rw [kraft_cons]
    refine Nat.dvd_add ?_ ih
    split
    · exact Nat.pow_dvd_pow 2 (by omega)
    · exact Nat.dvd_zero _

theorem codeStart_dvd {lens : List Nat} {a m : Nat} (h : lens.getD a 0 = m + 1) : 2 ^ (15 - m) ∣ codeStart lens a := by
  rw [codeStart_eq h]
  exact Nat.dvd_add ((Nat.pow_dvd_pow 2 (by omega)).trans (kraft_dvd m lens)) (Nat.dvd_mul_right _ _)

theorem lt_length_of_getD {lens : List Nat} {a m : Nat} (h : lens.getD a 0 = m + 1) : a < lens.length := by
  by_contra hn
  rw [List.getD_eq_default _ _ (Nat.not_lt.1 hn)] at h
  omega

theorem count_take_lt {lens : List Nat} {a m : Nat} (h : lens.getD a 0 = m + 1) :
    (lens.take a).count (m + 1) + 1 ≤ (lens.take (a + 1)).count (m + 1) := by
  have ha := lt_length_of_getD h
  rw [List.getD_eq_getElem _ _ ha] at h
  rw [List.take_succ_eq_append_getElem ha, List.count_append, h]
  simp

theorem count_take_mono (lens : List Nat) (v : Nat) {a b : Nat} (h : a ≤ b) :
    (lens.take a).count v ≤ (lens.take b).count v :=
  List.Sublist.count_le _ (List.take_sublist_take_left h)

/-- The code of a symbol ends within the space of the lengths up to its own. -/
theorem codeEnd_le {lens : List Nat} {a m : Nat} (h : lens.getD a 0 = m + 1) :
    codeStart lens a + 2 ^ (15 - m) ≤ kraft (m + 1) lens := by
  rw [codeStart_eq h, kraft_succ]
  have h1 := count_take_lt h
  have h2 : (lens.take (a + 1)).count (m + 1) ≤ lens.count (m + 1) := List.Sublist.count_le _ (List.take_sublist _ _)
  have h3 : 2 ^ (15 - m) * ((lens.take a).count (m + 1) + 1) ≤ 2 ^ (15 - m) * lens.count (m + 1) :=
    Nat.mul_le_mul_left _ (Nat.le_trans h1 h2)
  rw [Nat.mul_add, Nat.mul_one] at h3
  rw [Nat.mul_comm (lens.count (m + 1))]
  omega

/-- Codes that come earlier in the order of (length, symbol) end before later ones begin. -/
theorem codeEnd_le_codeStart {lens : List Nat} {a b m n : Nat} (ha : lens.getD a 0 = m + 1)
    (hb : lens.getD b 0 = n + 1) (hab : m < n ∨ (m = n ∧ a < b)) :
    codeStart lens a + 2 ^ (15 - m) ≤ codeStart lens b := by
  rcases hab with hmn | ⟨rfl, hab⟩
  · refine Nat.le_trans (codeEnd_le ha) (Nat.le_trans (kraft_mono hmn lens) ?_)
    rw [codeStart_eq hb]
    exact Nat.le_add_right _ _
  · rw [codeStart_eq ha, codeStart_eq hb]
    have h1 := Nat.le_trans (count_take_lt ha) (count_take_mono lens (m + 1) hab)
    have h3 := Nat.mul_le_mul_left (2 ^ (15 - m)) h1
    rw [Nat.mul_add, Nat.mul_one] at h3
    omega

/-- The `q`-th occurrence of a value in a list. -/
theorem exists_occurrence (lens : List Nat) (v q : Nat) (h : q < lens.count v) :
    ∃ a, lens.getD a (v + 1) = v ∧ (lens.take a).count v = q := by
  induction lens generalizing q with
  | nil => simp at h
  | cons l ls ih =>
    rw [List.count_cons] at h
    by_cases hl : l = v
    · subst hl
      rw [if_pos (beq_self_eq_true _)] at h
      cases q with
      | zero => exact ⟨0, by simp, by simp⟩
      | succ q =>
        obtain ⟨a, h1, h2⟩ := ih q (by omega)
        exact ⟨a + 1, by simpa using h1, by simp [h2]⟩
    · have h2 : (l == v) = false := by simpa using hl
      rw [h2] at h
      obtain ⟨a, h1, h3⟩ := ih q (by simpa using h)
      exact ⟨a + 1, by simpa using h1, by simp [h3, List.count_cons, h2]⟩

/-- Every position below the Kraft sum lies in the code of some symbol. -/
theorem exists_code (lens : List Nat) (m w : Nat) (h : w < kraft m lens) :
    ∃ a n, n < m ∧ lens.getD a 0 = n + 1 ∧ codeStart lens a ≤ w ∧ w < codeStart lens a + 2 ^ (15 - n) := by
  induction m with
  | zero => rw [kraft_zero] at h; omega
  | succ m ih =>
    by_cases hw : w < kraft m lens
    · obtain ⟨a, n, hn, h1⟩ := ih hw
      exact ⟨a, n, by omega, h1⟩
    · rw [kraft_succ] at h
      have hq : (w - kraft m lens) / 2 ^ (15 - m) < lens.count (m + 1) :=
        (Nat.div_lt_iff_lt_mul (Nat.two_pow_pos _)).2 (by omega)
      obtain ⟨a, h1, h2⟩ := exists_occurrence lens (m + 1) _ hq
      have ha : a < lens.length := by
        by_contra hn
        rw [List.getD_eq_default _ _ (Nat.not_lt.1 hn)] at h1
        omega
      have h3 : lens.getD a 0 = m + 1 := by
        rw [List.getD_eq_getElem _ _ ha] at h1 ⊢
        exact h1
      refine ⟨a, m, by omega, h3, ?_, ?_⟩
      · rw [codeStart_eq h3, h2]
        have := Nat.mul_div_le (w - kraft m lens) (2 ^ (15 - m))
        omega
      · rw [codeStart_eq h3, h2]
        have := Nat.lt_mul_div_succ (w - kraft m lens) (Nat.two_pow_pos (15 - m))
        rw [Nat.mul_add, Nat.mul_one] at this
        omega

/-! ## The leaves -/

theorem mem_symbolLeaves {len bm : Nat} {ls : List Nat} {sym pos : Nat} {x : Leaf} :
    x ∈ symbolLeaves len bm ls sym pos ↔
      ∃ j, ∃ h : j < ls.length, ls[j] = len ∧ x = ⟨sym + j, len, (pos + bm * (ls.take j).count len) / bm⟩ := by
  induction ls generalizing sym pos with
  | nil => simp [symbolLeaves]
  | cons l ls ih =>
    have hshift : ∀ (p : Nat) (hp : ∀ j, p + bm * (ls.take j).count len = pos + bm * ((l :: ls).take (j + 1)).count len),
        (∃ j, ∃ h : j < ls.length, ls[j] = len ∧ x = ⟨sym + 1 + j, len, (p + bm * (ls.take j).count len) / bm⟩) ↔
        (∃ j, ∃ h : j + 1 < (l :: ls).length, (l :: ls)[j + 1] = len ∧
          x = ⟨sym + (j + 1), len, (pos + bm * ((l :: ls).take (j + 1)).count len) / bm⟩) := by
      intro p hp
      simp only [List.length_cons, Nat.add_lt_add_iff_right, List.getElem_cons_succ, hp, Nat.add_assoc,
        Nat.add_comm 1]
    have hsplit : (∃ j, ∃ h : j < (l :: ls).length, (l :: ls)[j] = len ∧
          x = ⟨sym + j, len, (pos + bm * ((l :: ls).take j).count len) / bm⟩) ↔
        (l = len ∧ x = ⟨sym, len, pos / bm⟩) ∨ (∃ j, ∃ h : j + 1 < (l :: ls).length, (l :: ls)[j + 1] = len ∧
          x = ⟨sym + (j + 1), len, (pos + bm * ((l :: ls).take (j + 1)).count len) / bm⟩) := by
      constructor
      · rintro ⟨j, h, h1, h2⟩
        cases j with
        | zero => exact .inl ⟨by simpa using h1, by simpa using h2⟩
        | succ j => exact .inr ⟨j, h, h1, h2⟩
      · rintro (⟨h1, h2⟩ | ⟨j, h, h1, h2⟩)
        · exact ⟨0, by simp, by simpa using h1, by simpa using h2⟩
        · exact ⟨j + 1, h, h1, h2⟩
    rw [hsplit, symbolLeaves]
    by_cases h : l = len
    · rw [if_pos h, List.mem_cons, ih, ← hshift (pos + bm)]
      · simp [h]
      · intro j
        rw [List.take_succ_cons, List.count_cons, if_pos (by simp [h])]
        ring
    · rw [if_neg h, ih, ← hshift pos]
      · simp [h]
      · intro j
        rw [List.take_succ_cons, List.count_cons, if_neg (by simp [h])]
        ring

/-- The code of a symbol of length `m + 1` is its start in units of its length. -/
theorem canonicalCode_eq {lens : List Nat} {a m : Nat} (h : lens.getD a 0 = m + 1) :
    canonicalCode lens a = codeStart lens a / 2 ^ (15 - m) := by
  rw [canonicalCode, h, codeStart, h]
  congr 2
  omega

/-- The codes placed for the lengths 1 to `m` are the canonical codes of the symbols of those lengths. -/
theorem mem_unitLeaves {lens : List Nat} {m : Nat} {x : Leaf} :
    x ∈ unitLeaves lens m ↔ ∃ a, 1 ≤ lens.getD a 0 ∧ lens.getD a 0 ≤ m ∧
      x = ⟨a, lens.getD a 0, canonicalCode lens a⟩ := by
  induction m with
  | zero =>
    simp only [unitLeaves, List.not_mem_nil, false_iff]
    rintro ⟨a, h1, h2, -⟩
    omega
  | succ m ih =>
    rw [unitLeaves, List.mem_append, List.mem_reverse, ih, mem_symbolLeaves]
    constructor
    · rintro (⟨a, ha, h1, rfl⟩ | ⟨a, h1, h2, rfl⟩)
      · have h3 : lens.getD a 0 = m + 1 := by rw [List.getD_eq_getElem _ _ ha, h1]
        refine ⟨a, by omega, by omega, ?_⟩
        rw [canonicalCode_eq h3, codeStart_eq h3, h3, Nat.zero_add]
      · exact ⟨a, h1, by omega, rfl⟩
    · rintro ⟨a, h1, h2, rfl⟩
      by_cases h : lens.getD a 0 = m + 1
      · have ha := lt_length_of_getD h
        refine .inl ⟨a, ha, by rw [List.getD_eq_getElem _ _ ha] at h; exact h, ?_⟩
        rw [canonicalCode_eq h, codeStart_eq h, h, Nat.zero_add]
      · exact .inr ⟨a, h1, by omega, rfl⟩

/-! ## Prefix codes -/

/-- No code of the table begins another, and every code has 1 to 16 bits. -/
structure PrefixCode (t : List Leaf) : Prop where
  len : ∀ x ∈ t, 1 ≤ x.len ∧ x.len ≤ 16
  unique : ∀ x ∈ t, ∀ y ∈ t, x.len ≤ y.len → y.code / 2 ^ (y.len - x.len) = x.code → x = y

/-- Every 16 bits begin with some code of the table. -/
def CompleteCode (t : List Leaf) : Prop :=
  ∀ w, w < 65536 → ∃ x ∈ t, w / 2 ^ (16 - x.len) = x.code

theorem canonicalCode_mul {lens : List Nat} {a m : Nat} (h : lens.getD a 0 = m + 1) :
    canonicalCode lens a * 2 ^ (15 - m) = codeStart lens a := by
  rw [canonicalCode_eq h, Nat.div_mul_cancel (codeStart_dvd h)]

theorem prefixCode_unitLeaves {lens : List Nat} {m : Nat} (hm : m ≤ 16) : PrefixCode (unitLeaves lens m) := by
  constructor
  · intro x hx
    obtain ⟨a, h1, h2, rfl⟩ := mem_unitLeaves.1 hx
    exact ⟨h1, Nat.le_trans h2 hm⟩
  · intro x hx y hy hlen hcode
    obtain ⟨a, ha1, ha2, rfl⟩ := mem_unitLeaves.1 hx
    obtain ⟨b, hb1, hb2, rfl⟩ := mem_unitLeaves.1 hy
    obtain ⟨k, hk⟩ : ∃ k, lens.getD a 0 = k + 1 := ⟨lens.getD a 0 - 1, by omega⟩
    obtain ⟨n, hn⟩ : ∃ n, lens.getD b 0 = n + 1 := ⟨lens.getD b 0 - 1, by omega⟩
    simp only [hk, hn] at hlen hcode
    have hA := canonicalCode_mul hk
    have hB := canonicalCode_mul hn
    have hkn : n + 1 - (k + 1) = n - k := by omega
    rw [hkn] at hcode
    have h1 := Nat.mul_div_le (canonicalCode lens b) (2 ^ (n - k))
    have h2 := Nat.lt_mul_div_succ (canonicalCode lens b) (Nat.two_pow_pos (n - k))
    rw [hcode] at h1 h2
    have hpow : 2 ^ (n - k) * 2 ^ (15 - n) = 2 ^ (15 - k) := by
      rw [← Nat.pow_add]
      congr 1
      omega
    have h3 := Nat.mul_le_mul_right (2 ^ (15 - n)) h1
    have h4 := Nat.mul_le_mul_right (2 ^ (15 - n)) (Nat.succ_le_of_lt h2)
    rw [Nat.mul_comm (2 ^ (n - k)), Nat.mul_assoc, hpow, hA, hB] at h3
    rw [Nat.mul_comm (2 ^ (n - k)), Nat.mul_assoc, hpow, Nat.add_mul, Nat.one_mul, hA, Nat.succ_mul, hB] at h4
    have hpos := Nat.two_pow_pos (15 - n)
    rcases Nat.lt_trichotomy a b with hab | hab | hab
    · exfalso
      have := codeEnd_le_codeStart hk hn (by omega)
      omega
    · subst hab
      rfl
    · exfalso
      rcases Nat.lt_or_ge k n with hlt | hge
      · have := codeEnd_le_codeStart hk hn (.inl hlt)
        omega
      · have := codeEnd_le_codeStart hn hk (.inr ⟨by omega, hab⟩)
        omega

theorem completeCode_unitLeaves {lens : List Nat} {m : Nat} (hm : m ≤ 16) (h : kraft m lens = 65536) :
    CompleteCode (unitLeaves lens m) := by
  intro w hw
  obtain ⟨a, n, hn, h1, h2, h3⟩ := exists_code lens m w (by omega)
  refine ⟨⟨a, lens.getD a 0, canonicalCode lens a⟩, mem_unitLeaves.2 ⟨a, by omega, by omega, rfl⟩, ?_⟩
  have h16 : 16 - (n + 1) = 15 - n := by omega
  simp only [h1, h16]
  have hmul := canonicalCode_mul h1
  refine Nat.div_eq_of_lt_le (by rw [hmul]; exact h2) ?_
  rw [Nat.add_mul, Nat.one_mul, hmul]
  exact h3

/-! ## Decoding -/

/-- The first bits of a longer read. -/
theorem streamBits_prefix (s : State) {k n : Nat} (h : k ≤ n) :
    ofBits (streamBits s n) / 2 ^ (n - k) = ofBits (streamBits s k) := by
  have hsplit : streamBits s n = streamBits s k ++ ((List.range (n - k)).map (k + ·)).map (streamBit s) := by
    rw [streamBits, streamBits, ← List.map_append, ← List.range_add, Nat.add_sub_cancel' h]
  rw [hsplit, ofBits_append]
  have hlt := ofBits_lt (((List.range (n - k)).map (k + ·)).map (streamBit s))
  simp only [List.length_map, List.length_range] at hlt ⊢
  rw [Nat.mul_comm, Nat.mul_add_div (Nat.two_pow_pos _), Nat.div_eq_of_lt hlt, Nat.add_zero]

theorem entryAt_leaf {t : List Leaf} (ht : PrefixCode t) {x : Leaf} (hx : x ∈ t) {k p : Nat} (hk : x.len ≤ k)
    (hp : p / 2 ^ (k - x.len) = x.code) : entryAt t k p = .leaf x.sym := by
  have hsome : (t.find? fun l => l.len ≤ k && l.code == p / 2 ^ (k - l.len)).isSome := by
    rw [List.find?_isSome]
    exact ⟨x, hx, by simp [hk, hp]⟩
  obtain ⟨y, hy⟩ := Option.isSome_iff_exists.1 hsome
  have hyt := List.mem_of_find?_eq_some hy
  have hyp := List.find?_some hy
  simp only [Bool.and_eq_true, decide_eq_true_eq, beq_iff_eq] at hyp
  have hxy : y = x := by
    have hstep : ∀ u v : Leaf, u ∈ t → v ∈ t → u.len ≤ k → v.len ≤ k → p / 2 ^ (k - u.len) = u.code →
        p / 2 ^ (k - v.len) = v.code → u.len ≤ v.len → u = v := by
      intro u v hu hv hul hvl hup hvp huv
      refine ht.unique u hu v hv huv ?_
      rw [← hvp, Nat.div_div_eq_div_mul, ← Nat.pow_add, ← hup]
      congr 2
      omega
    rcases Nat.le_total y.len x.len with h | h
    · exact hstep y x hyt hx hyp.1 hk hyp.2.symm hp h
    · exact (hstep x y hx hyt hk hyp.1 hp hyp.2.symm h).symm
  rw [entryAt, hy, hxy]

theorem entryAt_node {t : List Leaf} (ht : PrefixCode t) {x : Leaf} (hx : x ∈ t) {k p : Nat} (hk : k < x.len)
    (hp : x.code / 2 ^ (x.len - k) = p) : entryAt t k p = .node := by
  have hnone : t.find? (fun l => l.len ≤ k && l.code == p / 2 ^ (k - l.len)) = none := by
    rw [List.find?_eq_none]
    intro y hy h
    simp only [Bool.and_eq_true, decide_eq_true_eq, beq_iff_eq] at h
    have := ht.unique y hy x hx (by omega) (by
      rw [h.2, ← hp, Nat.div_div_eq_div_mul, ← Nat.pow_add]
      congr 2
      omega)
    subst this
    omega
  rw [entryAt, hnone]
  simp only []
  rw [if_pos]
  rw [List.any_eq_true]
  exact ⟨x, hx, by simp [hk, hp]⟩

theorem walkTable_of_code {t : List Leaf} (ht : PrefixCode t) {x : Leaf} (hx : x ∈ t) {s : State}
    (hbits : ofBits (streamBits s x.len) = x.code) (n k : Nat) (hn : k + n = 32) (hk : k < x.len) :
    walkTable t (ofBits (streamBits s 32)) n k s = .ok x.sym s := by
  induction n generalizing k with
  | zero => have := (ht.len x hx).2; omega
  | succ n ih =>
    have hw : ofBits (streamBits s 32) / 2 ^ n = ofBits (streamBits s (k + 1)) := by
      rw [← streamBits_prefix s (show k + 1 ≤ 32 by omega)]
      congr 2
      omega
    rw [walkTable, hw]
    by_cases hlen : x.len = k + 1
    · rw [entryAt_leaf ht hx (Nat.le_of_eq hlen) (by rw [hlen, Nat.sub_self, Nat.pow_zero, Nat.div_one, ← hlen, hbits])]
      rfl
    · rw [entryAt_node ht hx (by omega) (by rw [← hbits, streamBits_prefix s (by omega)])]
      exact ih (k + 1) (by omega) (by omega)

/-- A symbol whose code stands at the cursors is decoded and passed by its length (42_huffman.md R129, R130, R132):
`tb` bits must be in STORE, 32 for a code longer than `tb` (R133). -/
theorem decodeSym_of_code {t : List Leaf} (ht : PrefixCode t) {x : Leaf} (hx : x ∈ t) (lenOf : Nat → Nat) {tb : Nat}
    (htb : tb ≤ 16) {s : State} (hbits : ofBits (streamBits s x.len) = x.code)
    (hframes : framesPresent s (if x.len ≤ tb then tb else 32)) :
    decodeSym t lenOf tb s = passSymbol x.sym (lenOf x.sym) s := by
  unfold decodeSym
  by_cases hlen : x.len ≤ tb
  · rw [if_pos hlen] at hframes
    rw [Proc.bind_of_ok (peekBits_of_present hframes),
      entryAt_leaf ht hx hlen (by rw [streamBits_prefix s hlen, hbits])]
  · rw [if_neg hlen] at hframes
    rw [Proc.bind_of_ok (peekBits_of_present (framesPresent_mono hframes (by omega))),
      entryAt_node ht hx (Nat.not_le.1 hlen) (by rw [← hbits, streamBits_prefix s (by omega)])]
    simp only []
    rw [Proc.bind_of_ok (peekBits_of_present hframes),
      Proc.bind_of_ok (walkTable_of_code ht hx hbits (32 - tb) tb (by omega) (by omega))]

/-- A complete code decodes whatever bits stand at the cursors, as far as the peeks reach (42_huffman.md R134): it
passes a symbol whose code they begin with, or a frame of the peeks is not in STORE. -/
theorem decodeSym_of_complete {t : List Leaf} (ht : PrefixCode t) (hc : CompleteCode t) (lenOf : Nat → Nat) {tb : Nat}
    (htb : tb ≤ 16) (s : State) :
    (∃ x ∈ t, ofBits (streamBits s x.len) = x.code ∧ decodeSym t lenOf tb s = passSymbol x.sym (lenOf x.sym) s) ∨
    decodeSym t lenOf tb s = .error (.raise .readPastEnd) s := by
  have hlt : ofBits (streamBits s 16) < 65536 := by
    have := ofBits_lt (streamBits s 16)
    simpa [streamBits] using this
  obtain ⟨x, hx, hw⟩ := hc _ hlt
  have hbits : ofBits (streamBits s x.len) = x.code := by
    rw [← hw, streamBits_prefix s (ht.len x hx).2]
  by_cases hframes : framesPresent s (if x.len ≤ tb then tb else 32)
  · exact .inl ⟨x, hx, hbits, decodeSym_of_code ht hx lenOf htb hbits hframes⟩
  · right
    unfold decodeSym
    by_cases h1 : framesPresent s tb
    · have hlen : ¬x.len ≤ tb := fun h => hframes (by rw [if_pos h]; exact h1)
      rw [if_neg hlen] at hframes
      rw [Proc.bind_of_ok (peekBits_of_present h1),
        entryAt_node ht hx (Nat.not_le.1 hlen) (by rw [← hbits, streamBits_prefix s (by omega)])]
      simp only []
      rw [Proc.bind_of_error (peekBits_of_missing hframes)]
    · rw [Proc.bind_of_error (peekBits_of_missing h1)]

end Sys2Proof.Machine
end

