-- ==== Sys2Proof/Laws/Window.lean ====
section
/-!
SUPPORT. What the loops over WINDOW and over the length arrays do: a match copy (44_lzx_decode.md R162), the bytes of
an Uncompressed run (R163), the frame output (R164), a run of equal lengths (43_lzx_blocks.md R147).
-/

namespace Sys2Proof.Machine

/-! ## Copies -/

theorem copySource_lt (i off : Nat) : copySource i off < 65536 := by
  unfold copySource windowSize
  omega

theorem copySource_self {i off : Nat} (hi : i < 65536) : copySource (i + off) off = i := by
  have := hi
  unfold copySource windowSize
  omega

theorem copySource_ne {i off q : Nat} (hi : i < 65536) (hq : q < off) (hoff : off ≤ 65536) (h1 : 1 ≤ q) :
    copySource (i + q) off ≠ i := by
  have := hi
  unfold copySource windowSize
  omega

/-- One byte of a copy. -/
theorem copyLoop_succ {off n i : Nat} {s : State} {b : Byte} (hi : i < 65536)
    (hb : s.windowByte (copySource i off) = some b) :
    copyLoop off (n + 1) i s = copyLoop off n (i + 1) { s with window := Memory.put s.window i b } := by
  rw [copyLoop, Proc.bind_of_ok (winRead_of_some hb), Proc.bind_of_ok (winWrite_of_lt b hi)]

/-- A copy whose source cells are written: cell `i + j` takes the byte that stood, before the copy, `off` cells before
cell `i + j mod off`; so a copy longer than its offset repeats its last `off` bytes (44_lzx_decode.md R162,
20_memory.md R60). No other cell changes, and nothing else does. -/
theorem copyLoop_ok {off n i : Nat} {s : State} (hoff : 1 ≤ off ∧ off ≤ 65536) (hend : i + n ≤ 65536)
    (hsrc : ∀ j, j < n → j < off → s.windowByte (copySource (i + j) off) ≠ none) :
    ∃ w, copyLoop off n i s = .ok () { s with window := w } ∧
      (Memory.wf s.window → Memory.wf w) ∧
      ∀ x, Memory.get w x =
        if i ≤ x ∧ x < i + n then s.windowByte (copySource (i + (x - i) % off) off) else s.windowByte x := by
  induction n generalizing i s with
  | zero =>
    refine ⟨s.window, rfl, id, fun x => ?_⟩
    rw [if_neg (by omega)]
    rfl
  | succ n ih =>
    have hi : i < 65536 := by omega
    have h0 := hsrc 0 (Nat.succ_pos n) hoff.1
    rw [Nat.add_zero] at h0
    obtain ⟨b, hb⟩ := Option.ne_none_iff_exists'.1 h0
    rw [copyLoop_succ hi hb]
    obtain ⟨w, hw, hwf, hget⟩ := ih (i := i + 1) (s := { s with window := Memory.put s.window i b }) (by omega) (by
      intro j hj hjo
      change Memory.get (Memory.put s.window i b) _ ≠ none
      rw [Memory.get_put]
      split
      · simp
      · rename_i hne
        have hj1 : j + 1 < off := by
          by_contra hn
          have : j + 1 = off := by omega
          refine hne ?_
          have := copySource_self (off := off) hi
          rw [show i + 1 + j = i + off by omega, this]
        have := hsrc (j + 1) (by omega) hj1
        rwa [show i + (j + 1) = i + 1 + j by omega] at this)
    refine ⟨w, hw, fun h => hwf (Memory.wf_put h _ _), fun x => ?_⟩
    rw [hget]
    change (if _ then Memory.get (Memory.put s.window i b) _ else Memory.get (Memory.put s.window i b) x) = _
    rw [Memory.get_put, Memory.get_put]
    by_cases hx : i + 1 ≤ x ∧ x < i + 1 + n
    · rw [if_pos hx, if_pos (show i ≤ x ∧ x < i + (n + 1) by omega)]
      have hq := Nat.mod_lt (x - (i + 1)) hoff.1
      by_cases hlast : (x - (i + 1)) % off + 1 = off
      · have hsrc' : copySource (i + 1 + (x - (i + 1)) % off) off = i := by
          have := copySource_self (off := off) hi
          rwa [show i + off = i + 1 + (x - (i + 1)) % off by omega] at this
        have hmod : (x - i) % off = 0 := by
          have h1 : x - i = x - (i + 1) + 1 := by omega
          rw [h1, Nat.add_mod]
          rcases Nat.lt_or_ge 1 off with h | h
          · rw [Nat.mod_eq_of_lt h, hlast, Nat.mod_self]
          · obtain rfl : off = 1 := by omega
            simp [Nat.mod_one]
        rw [if_pos hsrc', hmod, Nat.add_zero, hb]
      · have hmod : (x - i) % off = (x - (i + 1)) % off + 1 := by
          have h1 : x - i = x - (i + 1) + 1 := by omega
          rw [h1, Nat.add_mod, Nat.mod_eq_of_lt (show 1 < off by omega), Nat.mod_eq_of_lt (by omega)]
        have hne : copySource (i + 1 + (x - (i + 1)) % off) off ≠ i := by
          have := copySource_ne (q := (x - (i + 1)) % off + 1) hi (by omega) hoff.2 (by omega)
          rwa [show i + ((x - (i + 1)) % off + 1) = i + 1 + (x - (i + 1)) % off by omega] at this
        rw [if_neg hne, hmod, show i + ((x - (i + 1)) % off + 1) = i + 1 + (x - (i + 1)) % off by omega]
        rfl
    · rw [if_neg hx]
      by_cases hxi : x = i
      · subst hxi
        rw [if_pos rfl, if_pos (show x ≤ x ∧ x < x + (n + 1) by omega), Nat.sub_self, Nat.zero_mod, Nat.add_zero, hb]
      · rw [if_neg hxi, if_neg (show ¬(i ≤ x ∧ x < i + (n + 1)) by omega)]
        rfl

/-- A copy stops at the first source cell that is unwritten; the cells before it are copied (44_lzx_decode.md R162). -/
theorem copyLoop_unwritten {off k n i : Nat} {s : State} (hoff : 1 ≤ off ∧ off ≤ 65536) (hk : k < n) (hko : k < off)
    (hend : i + n ≤ 65536) (hsrc : ∀ j, j < k → s.windowByte (copySource (i + j) off) ≠ none)
    (hnone : s.windowByte (copySource (i + k) off) = none) :
    ∃ w, copyLoop off n i s = .error (.raise .unwrittenWindowRead) { s with window := w } ∧
      (Memory.wf s.window → Memory.wf w) ∧
      ∀ x, Memory.get w x = if i ≤ x ∧ x < i + k then s.windowByte (copySource x off) else s.windowByte x := by
  induction k generalizing n i s with
  | zero =>
    obtain ⟨n, rfl⟩ : ∃ m, n = m + 1 := ⟨n - 1, by omega⟩
    refine ⟨s.window, ?_, id, fun x => ?_⟩
    · rw [Nat.add_zero] at hnone
      rw [copyLoop, Proc.bind_of_error (winRead_of_none hnone)]
    · rw [if_neg (by omega)]
      rfl
  | succ k ih =>
    obtain ⟨n, rfl⟩ : ∃ m, n = m + 1 := ⟨n - 1, by omega⟩
    have hi : i < 65536 := by omega
    have h0 := hsrc 0 (Nat.succ_pos k)
    rw [Nat.add_zero] at h0
    obtain ⟨b, hb⟩ := Option.ne_none_iff_exists'.1 h0
    rw [copyLoop_succ hi hb]
    have hput : ∀ q, 1 ≤ q → q < off → Memory.get (Memory.put s.window i b) (copySource (i + q) off)
        = s.windowByte (copySource (i + q) off) := by
      intro q h1 hq
      rw [Memory.get_put, if_neg (copySource_ne hi hq hoff.2 h1)]
      rfl
    obtain ⟨w, hw, hwf, hget⟩ := ih (n := n) (i := i + 1) (s := { s with window := Memory.put s.window i b })
      (by omega) (by omega) (by omega)
      (by
        intro j hj
        have := hput (j + 1) (by omega) (by omega)
        rw [show i + (j + 1) = i + 1 + j by omega] at this
        change Memory.get (Memory.put s.window i b) _ ≠ none
        rw [this]
        have := hsrc (j + 1) (by omega)
        rwa [show i + (j + 1) = i + 1 + j by omega] at this)
      (by
        have := hput (k + 1) (by omega) (by omega)
        rw [show i + (k + 1) = i + 1 + k by omega] at this
        change Memory.get (Memory.put s.window i b) _ = none
        rw [this, show i + 1 + k = i + (k + 1) by omega, hnone])
    refine ⟨w, hw, fun h => hwf (Memory.wf_put h _ _), fun x => ?_⟩
    rw [hget]
    change (if _ then Memory.get (Memory.put s.window i b) _ else Memory.get (Memory.put s.window i b) x) = _
    by_cases hx : i + 1 ≤ x ∧ x < i + 1 + k
    · rw [if_pos hx, if_pos (show i ≤ x ∧ x < i + (k + 1) by omega)]
      have := hput (x - i) (by omega) (by omega)
      rwa [show i + (x - i) = x by omega] at this
    · rw [if_neg hx, Memory.get_put]
      by_cases hxi : x = i
      · subst hxi
        rw [if_pos rfl, if_pos (show x ≤ x ∧ x < x + (k + 1) by omega), hb]
      · rw [if_neg hxi, if_neg (show ¬(i ≤ x ∧ x < i + (k + 1)) by omega)]
        rfl

/-! ## Raw bytes into the window, window bytes out -/

/-- Bytes written to consecutive cells. -/
theorem writeWindow_ok {i : Nat} {bs : List Byte} {s : State} (hend : i + bs.length ≤ 65536) :
    ∃ w, writeWindow i bs s = .ok () { s with window := w } ∧
      (Memory.wf s.window → Memory.wf w) ∧
      ∀ x, Memory.get w x = if i ≤ x ∧ x < i + bs.length then bs[x - i]? else s.windowByte x := by
  induction bs generalizing i s with
  | nil =>
    refine ⟨s.window, rfl, id, fun x => ?_⟩
    rw [if_neg (by simp)]
    rfl
  | cons b bs ih =>
    rw [List.length_cons] at hend
    have hi : i < 65536 := by omega
    rw [writeWindow, Proc.bind_of_ok (winWrite_of_lt b hi)]
    obtain ⟨w, hw, hwf, hget⟩ := ih (i := i + 1) (s := { s with window := Memory.put s.window i b }) (by omega)
    refine ⟨w, hw, fun h => hwf (Memory.wf_put h _ _), fun x => ?_⟩
    rw [hget]
    change (if _ then _ else Memory.get (Memory.put s.window i b) x) = _
    rw [Memory.get_put, List.length_cons]
    by_cases hx : i + 1 ≤ x ∧ x < i + 1 + bs.length
    · rw [if_pos hx, if_pos (by omega), show x - i = x - (i + 1) + 1 by omega, List.getElem?_cons_succ]
    · rw [if_neg hx]
      by_cases hxi : x = i
      · subst hxi
        rw [if_pos rfl, if_pos (by omega)]
        simp
      · rw [if_neg hxi, if_neg (by omega)]
        rfl

/-- Written cells are read in order, and nothing changes. -/
theorem readWindow_ok {cells : List Nat} {bs : List Byte} {s : State} (h : cells.map s.windowByte = bs.map some) :
    readWindow cells s = .ok bs s := by
  induction cells generalizing bs with
  | nil =>
    obtain rfl : bs = [] := by simpa using h.symm
    rfl
  | cons i is ih =>
    cases bs with
    | nil => simp at h
    | cons b bs =>
      simp only [List.map_cons, List.cons.injEq] at h
      rw [readWindow, Proc.bind_of_ok (winRead_of_some h.1), Proc.bind_of_ok (ih h.2)]
      rfl

/-- All that a frame output can do: it reads the cells in order, or meets an unwritten one; it changes nothing. -/
theorem readWindow_cases (cells : List Nat) (s : State) :
    (∃ bs, readWindow cells s = .ok bs s ∧ cells.map s.windowByte = bs.map some) ∨
    readWindow cells s = .error (.raise .unwrittenWindowRead) s := by
  induction cells with
  | nil => exact .inl ⟨[], rfl, rfl⟩
  | cons i is ih =>
    cases hb : s.windowByte i with
    | none => exact .inr (by rw [readWindow, Proc.bind_of_error (winRead_of_none hb)])
    | some b =>
      rcases ih with ⟨bs, h1, h2⟩ | h
      · refine .inl ⟨b :: bs, ?_, by simp [hb, h2]⟩
        rw [readWindow, Proc.bind_of_ok (winRead_of_some hb), Proc.bind_of_ok h1]
        rfl
      · exact .inr (by rw [readWindow, Proc.bind_of_ok (winRead_of_some hb), Proc.bind_of_error h])

/-! ## Length arrays -/

/-- A run of equal lengths: the entries of the run, and no other. -/
theorem fillVector_getElem {n w : Nat} (xs : Vector (BitVec w) n) (i v count j : Nat) (hj : j < n) :
    (fillVector xs i v count)[j] = if i ≤ j ∧ j < i + count then BitVec.ofNat w v else xs[j] := by
  induction count generalizing xs i with
  | zero => rw [fillVector, if_neg (by omega)]
  | succ count ih =>
    rw [fillVector, ih, Vector.getElem_setIfInBounds]
    by_cases h : i + 1 ≤ j ∧ j < i + 1 + count
    · rw [if_pos h, if_pos (by omega)]
    · rw [if_neg h]
      by_cases hij : i = j
      · rw [if_pos hij, if_pos (by omega)]
      · rw [if_neg hij, if_neg (by omega)]

/-- Consecutive entries written from index `i` on, and no other. -/
theorem writeLengths_getElem {n w : Nat} (xs : Vector (BitVec w) n) (i : Nat) (ls : List Nat) (j : Nat) (hj : j < n) :
    (writeLengths xs i ls)[j] =
      if i ≤ j ∧ j < i + ls.length then BitVec.ofNat w (ls.getD (j - i) 0) else xs[j] := by
  induction ls generalizing xs i with
  | nil => rw [writeLengths, if_neg (by simp)]
  | cons l ls ih =>
    rw [writeLengths, ih, Vector.getElem_setIfInBounds, List.length_cons]
    by_cases h : i + 1 ≤ j ∧ j < i + 1 + ls.length
    · rw [if_pos h, if_pos (by omega), show j - i = j - (i + 1) + 1 by omega, List.getD_cons_succ]
    · rw [if_neg h]
      by_cases hij : i = j
      · subst hij
        rw [if_pos rfl, if_pos (by omega), Nat.sub_self, List.getD_cons_zero]
      · rw [if_neg hij, if_neg (by omega)]

/-- The new length of a delta is a code length (43_lzx_blocks.md R147). -/
theorem deltaLength_le (old symbol : Nat) : deltaLength old symbol ≤ 16 := by
  unfold deltaLength
  omega

end Sys2Proof.Machine
end

