-- ==== Sys2Proof/Laws/Engine.lean ====
section
/-!
SUPPORT. What every procedure of the engine keeps, whether it returns or ends early: the frame of the engine (STORE,
the parameters, the host's table, the fault registers, the opcode of the command) and the engine's part of the
invariant (the forms of WINDOW and of the length arrays, the symbols of the tables).
-/

namespace Sys2Proof.Machine

open Sys2Proof.Safety

/-- What no procedure of the engine or of the buffer writes. -/
structure EngineFrame (s t : State) : Prop where
  store : t.store = s.store
  storeLen : t.storeLen = s.storeLen
  params : t.params = s.params
  pending : t.pending = s.pending
  response : t.response = s.response
  opcode : t.tmp.opcode = s.tmp.opcode
  hostN : t.hostN = s.hostN
  hostTb : t.hostTb = s.hostTb
  hostLen : t.hostLen = s.hostLen
  hostTable : t.hostTable = s.hostTable
  faulted : t.faulted = s.faulted
  faultClass : t.faultClass = s.faultClass
  faultCause : t.faultCause = s.faultCause
  faultOpcode : t.faultOpcode = s.faultOpcode
  faultByteOffset : t.faultByteOffset = s.faultByteOffset
  faultBitOffset : t.faultBitOffset = s.faultBitOffset
  mainTail : ∀ j : Fin 656, 512 ≤ j.val → t.mainLen[j] = s.mainLen[j]
  lengthTail : t.lengthLen[249] = s.lengthLen[249]

theorem EngineFrame.preorder : Preorder EngineFrame where
  refl _ := ⟨rfl, rfl, rfl, rfl, rfl, rfl, rfl, rfl, rfl, rfl, rfl, rfl, rfl, rfl, rfl, rfl, fun _ _ => rfl, rfl⟩
  trans h k := ⟨k.1.trans h.1, k.2.trans h.2, k.3.trans h.3, k.4.trans h.4, k.5.trans h.5, k.6.trans h.6,
    k.7.trans h.7, k.8.trans h.8, k.9.trans h.9, k.10.trans h.10, k.11.trans h.11, k.12.trans h.12, k.13.trans h.13,
    k.14.trans h.14, k.15.trans h.15, k.16.trans h.16, fun j hj => (k.17 j hj).trans (h.17 j hj), k.18.trans h.18⟩

theorem EngineFrame.refl (s : State) : EngineFrame s s := EngineFrame.preorder.refl s

/-- The engine's part of the invariant. -/
structure EngineInv (s : State) : Prop where
  window : s.windowWf
  posn : s.windowPosn.toNat ≤ windowSize
  mainLens : ∀ i : Fin 656, s.mainLen[i].toNat ≤ maxCodeLen ∧ (512 ≤ i.val → s.mainLen[i] = 0)
  lengthLens : ∀ i : Fin 250, s.lengthLen[i].toNat ≤ maxCodeLen ∧ (249 ≤ i.val → s.lengthLen[i] = 0)
  pretreeSymbols : symbolsBelow s.pretreeTable 20
  mainSymbols : symbolsBelow s.mainTable 512
  lengthSymbols : symbolsBelow s.lengthTable 249
  alignedSymbols : symbolsBelow s.alignedTable 8

/-- The relation of the state a procedure starts in to the state it leaves: the frame, and the engine's invariant if it
held before. -/
def Kept (s t : State) : Prop :=
  EngineFrame s t ∧ (EngineInv s → EngineInv t)

theorem Kept.preorder : Preorder Kept where
  refl s := ⟨EngineFrame.refl s, id⟩
  trans h k := ⟨EngineFrame.preorder.trans h.1 k.1, fun hi => k.2 (h.2 hi)⟩

theorem Kept.refl (s : State) : Kept s s := Kept.preorder.refl s

/-- A procedure that leaves a state so related, whatever state it starts in. -/
abbrev Framed {α : Type} (p : Proc α) : Prop := Keeps (fun _ => True) Kept p

theorem Framed.left {α : Type} {p : Proc α} (h : Framed p) (s : State) : Kept s (Proc.left (p s)) := (h s trivial).2

theorem Framed.of_left {α : Type} {p : Proc α} (h : ∀ s, Kept s (Proc.left (p s))) : Framed p :=
  fun s _ => ⟨trivial, h s⟩

theorem Framed.ok {α : Type} {p : Proc α} (h : Framed p) {s t : State} {a : α} (he : p s = .ok a t) : Kept s t :=
  (Keeps.ok h trivial he).2

theorem Framed.error {α : Type} {p : Proc α} (h : Framed p) {s t : State} {e : Stop} (he : p s = .error e t) :
    Kept s t :=
  (Keeps.error h trivial he).2

section
variable {α β : Type}

theorem Framed.pure (a : α) : Framed (Pure.pure a : Proc α) := Keeps.pure Kept.preorder a

theorem Framed.raise (c : Cause) : Framed (raise c : Proc α) := Keeps.raise Kept.preorder c

theorem Framed.halt (f : Fault) : Framed (halt f : Proc α) := Keeps.halt Kept.preorder f

theorem Framed.bind {p : Proc α} {f : α → Proc β} (hp : Framed p) (hf : ∀ a, Framed (f a)) : Framed (p >>= f) :=
  Keeps.bind Kept.preorder hp hf

theorem Framed.bind_get {f : State → Proc β} (hf : ∀ s, Framed (f s)) : Framed (MonadState.get >>= f) :=
  Framed.of_left fun s => (hf s).left s

theorem Framed.update {f : State → State} (h : ∀ s, Kept s (f s)) : Framed (update f) := Framed.of_left h

end

/-! ## The buffer -/

/-- A write of registers that neither the frame nor the invariant speaks of. -/
theorem Kept.withCursor (s : State) (b k : Nat) : Kept s (s.withCursor b k) :=
  ⟨⟨rfl, rfl, rfl, rfl, rfl, rfl, rfl, rfl, rfl, rfl, rfl, rfl, rfl, rfl, rfl, rfl, fun _ _ => rfl, rfl⟩,
    fun h => ⟨h.1, h.2, h.3, h.4, h.5, h.6, h.7, h.8⟩⟩

theorem framed_writeCursor (b k : Nat) : Framed (writeCursor b k) := Framed.of_left fun s => by
  rcases writeCursor_cases b k s with ⟨-, h⟩ | ⟨-, h⟩ <;> rw [h]
  · exact Kept.withCursor s b k
  · exact Kept.refl s

theorem framed_memRead (a n : Nat) : Framed (memRead a n) := Framed.of_left fun s => by
  unfold memRead
  split <;> exact Kept.refl s

theorem framed_readRaw (n : Nat) : Framed (readRaw n) := Framed.of_left fun s => by
  rcases readRaw_cases n s with ⟨-, h⟩ | ⟨-, h⟩ <;> rw [h]
  · exact Kept.withCursor s _ _
  · exact Kept.refl s

theorem framed_readByte : Framed readByte := (framed_readRaw 1).bind fun _ => Framed.pure _

theorem framed_lzxInt16 : Framed lzxInt16 := (framed_readRaw 2).bind fun _ => Framed.pure _

theorem framed_readBits (n : Nat) : Framed (readBits n) := by
  refine Framed.bind_get fun s => ?_
  split
  · exact (framed_writeCursor _ _).bind fun _ => Framed.pure _
  · exact (framed_writeCursor _ _).bind fun _ => Framed.raise _

theorem framed_peekBits (n : Nat) : Framed (peekBits n) := Framed.of_left fun s => by
  rcases peekBits_cases n s with ⟨-, h⟩ | ⟨-, h⟩ <;> rw [h] <;> exact Kept.refl s

theorem framed_alignCursor : Framed alignCursor := Framed.of_left fun s => by
  rw [alignCursor_run]
  split
  · exact Kept.refl s
  · exact (framed_writeCursor _ _).left s

theorem framed_setBitPos (v : Int) : Framed (setBitPos v) := Framed.of_left fun s => (framed_writeCursor _ _).left s

theorem framed_varintLoop (n i r : Nat) : Framed (varintLoop n i r) := by
  induction n generalizing i r with
  | zero => exact Framed.raise _
  | succ n ih =>
    refine framed_readByte.bind fun c => ?_
    dsimp only
    split
    · exact Framed.pure _
    · exact ih _ _

theorem framed_readVarint : Framed readVarint := framed_varintLoop 5 0 0

/-! ## The Huffman unit -/

theorem framed_walkTable (t : List Leaf) (w n k : Nat) : Framed (walkTable t w n k) := by
  induction n generalizing k with
  | zero => exact Framed.raise _
  | succ n ih =>
    unfold walkTable
    split
    · exact Framed.pure _
    · exact Framed.raise _
    · exact ih _

theorem framed_passSymbol (sym len : Nat) : Framed (passSymbol sym len) :=
  Framed.bind_get fun _ => (framed_setBitPos _).bind fun _ => Framed.pure _

theorem framed_decodeSym (t : List Leaf) (lenOf : Nat → Nat) (tb : Nat) : Framed (decodeSym t lenOf tb) := by
  refine (framed_peekBits tb).bind fun p => ?_
  split
  · exact framed_passSymbol _ _
  · exact Framed.raise _
  · exact (framed_peekBits 32).bind fun w => (framed_walkTable _ _ _ _).bind fun sym => framed_passSymbol _ _

theorem framed_decodeTree (x : Tree) : Framed (decodeTree x) :=
  Framed.bind_get fun _ => framed_decodeSym _ _ _

/-- A symbol that has a code in the table of a build has a length of 1 to 16. -/
theorem sym_of_buildTable {accept : Bool} {tb : Nat} (htb : 1 ≤ tb ∧ tb ≤ 16) {lens : List Nat} {t : List Leaf}
    (h : buildTable accept tb lens = .ok t) {x : Leaf} (hx : x ∈ t) : lens.getD x.sym 0 ≠ 0 := by
  rw [buildTable_eq accept tb htb] at h
  have key : ∀ m, x ∈ unitLeaves lens m → lens.getD x.sym 0 ≠ 0 := fun m hm => by
    obtain ⟨a, h1, -, rfl⟩ := mem_unitLeaves.1 hm
    exact Nat.ne_of_gt h1
  split at h
  · cases h
  · split at h
    · cases h; exact key _ hx
    · split at h
      · cases h
      · split at h
        · cases h; exact key _ hx
        · split at h
          · cases h; exact key _ hx
          · cases h

/-- A symbol of nonzero length lies in its array. -/
theorem lt_length_of_getD_ne {lens : List Nat} {a : Nat} (h : lens.getD a 0 ≠ 0) : a < lens.length := by
  by_contra hn
  exact h (by rw [List.getD_eq_default _ _ (Nat.not_lt.1 hn)])

theorem symbolsBelow_nil {t : Table} (h : t.leaves = []) (n : Nat) : symbolsBelow t n := fun l hl => by
  rw [h] at hl
  exact absurd hl List.not_mem_nil

theorem mainLength_getD (s : State) {i : Nat} (hi : i < 656) : (s.treeLengths .main).getD i 0 = s.mainLen[i].toNat := by
  simp [State.treeLengths, List.getD_eq_getElem?_getD, hi]

theorem lengthLength_getD (s : State) {i : Nat} (hi : i < 250) :
    (s.treeLengths .length).getD i 0 = s.lengthLen[i].toNat := by
  simp [State.treeLengths, List.getD_eq_getElem?_getD, hi]

theorem treeLengths_length (s : State) (x : Tree) :
    (s.treeLengths x).length = match x with | .pretree => 20 | .main => 656 | .length => 250 | .aligned => 8 := by
  cases x <;> simp [State.treeLengths]

theorem treeBits_range (x : Tree) : 1 ≤ treeBits x ∧ treeBits x ≤ 16 := by
  cases x <;> decide

/-- What a build of a tree's lengths places codes only symbols the encoding uses. -/
theorem built_symbolsBelow {s : State} (hs : EngineInv s) {x : Tree} {accept : Bool} {t : List Leaf}
    (h : buildTable accept (treeBits x) (s.treeLengths x) = .ok t) :
    symbolsBelow ⟨true, t⟩ (codedSymbols x) := by
  intro l hl
  have h0 := sym_of_buildTable (treeBits_range x) h hl
  have hlt := lt_length_of_getD_ne h0
  rw [treeLengths_length] at hlt
  cases x with
  | pretree => exact hlt
  | aligned => exact hlt
  | main =>
    by_contra hn
    change ¬l.sym < 512 at hn
    have h1 : l.sym < 656 := hlt
    rw [mainLength_getD s h1] at h0
    have h2 := (hs.mainLens ⟨l.sym, h1⟩).2 (Nat.not_lt.1 hn)
    exact h0 (by rw [Fin.getElem_fin] at h2; rw [h2]; rfl)
  | length =>
    by_contra hn
    change ¬l.sym < 249 at hn
    have h1 : l.sym < 250 := hlt
    rw [lengthLength_getD s h1] at h0
    have h2 := (hs.lengthLens ⟨l.sym, h1⟩).2 (Nat.not_lt.1 hn)
    exact h0 (by rw [Fin.getElem_fin] at h2; rw [h2]; rfl)

/-- A table replaced by one that codes only symbols the encoding uses. -/
theorem Kept.setTable (s : State) (x : Tree) {t : Table} (h : EngineInv s → symbolsBelow t (codedSymbols x)) :
    Kept s (s.setTable x t) := by
  constructor
  · cases x <;> exact ⟨rfl, rfl, rfl, rfl, rfl, rfl, rfl, rfl, rfl, rfl, rfl, rfl, rfl, rfl, rfl, rfl, fun _ _ => rfl, rfl⟩
  · intro hs
    have h := h hs
    cases x with
    | pretree => exact ⟨hs.1, hs.2, hs.3, hs.4, h, hs.6, hs.7, hs.8⟩
    | main => exact ⟨hs.1, hs.2, hs.3, hs.4, hs.5, h, hs.7, hs.8⟩
    | length => exact ⟨hs.1, hs.2, hs.3, hs.4, hs.5, hs.6, h, hs.8⟩
    | aligned => exact ⟨hs.1, hs.2, hs.3, hs.4, hs.5, hs.6, hs.7, h⟩

/-- All that the build of a tree can do (42_huffman.md R137). -/
theorem buildTree_cases (x : Tree) (s : State) :
    (∃ t, buildTable s.params.emptyTreeAccept (treeBits x) (s.treeLengths x) = .ok t ∧
      buildTree x s = .ok () (s.setTable x ⟨true, t⟩)) ∨
    (∃ c, buildTable s.params.emptyTreeAccept (treeBits x) (s.treeLengths x) = .error c ∧
      buildTree x s = .error (.raise c) (s.setTable x ⟨false, []⟩)) := by
  cases h : buildTable s.params.emptyTreeAccept (treeBits x) (s.treeLengths x) with
  | ok t => exact .inl ⟨t, rfl, by rw [buildTree, h]⟩
  | error c => exact .inr ⟨c, rfl, by rw [buildTree, h]⟩

theorem framed_buildTree (x : Tree) : Framed (buildTree x) := Framed.of_left fun s => by
  rcases buildTree_cases x s with ⟨t, hb, h⟩ | ⟨c, -, h⟩ <;> rw [h]
  · exact Kept.setTable s x fun hs => built_symbolsBelow hs hb
  · exact Kept.setTable s x fun _ => symbolsBelow_nil rfl _

/-! ## WINDOW -/

theorem Kept.putWindow (s : State) {i : Nat} (hi : i < 65536) (v : Byte) :
    Kept s { s with window := Memory.put s.window i v } :=
  ⟨⟨rfl, rfl, rfl, rfl, rfl, rfl, rfl, rfl, rfl, rfl, rfl, rfl, rfl, rfl, rfl, rfl, fun _ _ => rfl, rfl⟩,
    fun h => ⟨⟨Memory.wf_put h.1.1 _ _, fun c hc => by
      rcases Memory.mem_put hc with rfl | hc
      · exact hi
      · exact h.1.2 c hc⟩, h.2, h.3, h.4, h.5, h.6, h.7, h.8⟩⟩

theorem framed_winWrite (i : Nat) (v : Byte) : Framed (winWrite i v) := Framed.of_left fun s => by
  by_cases h : i < 65536
  · rw [winWrite_of_lt v h]
    exact Kept.putWindow s h v
  · rw [winWrite_of_le v (Nat.not_lt.1 h)]
    exact Kept.refl s

theorem framed_winRead (i : Nat) : Framed (winRead i) := Framed.of_left fun s => by
  unfold winRead
  split <;> exact Kept.refl s

theorem framed_copyLoop (off n i : Nat) : Framed (copyLoop off n i) := by
  induction n generalizing i with
  | zero => exact Framed.pure _
  | succ n ih => exact (framed_winRead _).bind fun b => (framed_winWrite _ _).bind fun _ => ih _

theorem framed_writeWindow (i : Nat) (bs : List Byte) : Framed (writeWindow i bs) := by
  induction bs generalizing i with
  | nil => exact Framed.pure _
  | cons b bs ih => exact (framed_winWrite _ _).bind fun _ => ih _

theorem framed_readWindow (cells : List Nat) : Framed (readWindow cells) := by
  induction cells with
  | nil => exact Framed.pure _
  | cons i is ih => exact (framed_winRead _).bind fun _ => ih.bind fun _ => Framed.pure _

/-- A window write that returns was inside the window. -/
theorem copyLoop_end {off n i : Nat} {s t : State} (h : copyLoop off n i s = .ok () t) : n = 0 ∨ i + n ≤ 65536 := by
  induction n generalizing i s with
  | zero => exact .inl rfl
  | succ n ih =>
    right
    rw [copyLoop] at h
    obtain ⟨b, s1, -, h⟩ := Proc.bind_eq_ok.1 h
    obtain ⟨u, s2, hw, h⟩ := Proc.bind_eq_ok.1 h
    have hi : i < 65536 := by
      by_contra hn
      rw [winWrite_of_le b (Nat.not_lt.1 hn)] at hw
      cases hw
    rcases ih h with rfl | h <;> omega

theorem writeWindow_end {i : Nat} {bs : List Byte} {s t : State} (h : writeWindow i bs s = .ok () t) :
    bs = [] ∨ i + bs.length ≤ 65536 := by
  induction bs generalizing i s with
  | nil => exact .inl rfl
  | cons b bs ih =>
    right
    rw [writeWindow] at h
    obtain ⟨u, s2, hw, h⟩ := Proc.bind_eq_ok.1 h
    have hi : i < 65536 := by
      by_contra hn
      rw [winWrite_of_le b (Nat.not_lt.1 hn)] at hw
      cases hw
    rw [List.length_cons]
    rcases ih h with rfl | h
    · simp only [List.length_nil]; omega
    · omega

end Sys2Proof.Machine
end

