-- ==== Sys2Proof/Laws/EngineElements.lean ====
section
/-!
SUPPORT. What the elements of the bitstream keep (Laws/Engine.lean), the lengths that a run of ReadLengths writes, and
the elements that each place of the stream can hold.
-/

namespace Sys2Proof.Machine

open Sys2Proof.Safety

/-- A write of registers that neither the frame nor the engine's invariant speaks of. -/
theorem Kept.other {s t : State}
    (h : t = { s with
      byteOffset := t.byteOffset, bitOffset := t.bitOffset, rep0 := t.rep0, rep1 := t.rep1, rep2 := t.rep2
      headerRead := t.headerRead, blockType := t.blockType, blockRemaining := t.blockRemaining
      alignedLen := t.alignedLen, pretreeLen := t.pretreeLen, frmConsumed := t.frmConsumed, frmOut := t.frmOut
      tmp := t.tmp }) (ho : t.tmp.opcode = s.tmp.opcode) : Kept s t := by
  constructor
  · constructor <;> first | exact ho | (intro j _; rw [h]) | (rw [h])
  · intro hs
    rw [h]
    exact ⟨hs.1, hs.2, hs.3, hs.4, hs.5, hs.6, hs.7, hs.8⟩

theorem framed_update_other {f : State → State}
    (h : ∀ s, f s = { s with
      byteOffset := (f s).byteOffset, bitOffset := (f s).bitOffset, rep0 := (f s).rep0, rep1 := (f s).rep1
      rep2 := (f s).rep2, headerRead := (f s).headerRead, blockType := (f s).blockType
      blockRemaining := (f s).blockRemaining, alignedLen := (f s).alignedLen, pretreeLen := (f s).pretreeLen
      frmConsumed := (f s).frmConsumed, frmOut := (f s).frmOut, tmp := (f s).tmp })
    (ho : ∀ s, (f s).tmp.opcode = s.tmp.opcode) : Framed (update f) :=
  Framed.update fun s => Kept.other (h s) (ho s)

/-! ## Length arrays -/

theorem deltaValue_le (s : State) (symbol : Nat) : s.deltaValue symbol ≤ 16 := deltaLength_le _ _

/-- Equal lengths 0..16 written inside the written part of an array. -/
theorem Kept.fillLengths (s : State) {x : LenArray} {i count v : Nat} (hend : i + count ≤ writtenEntries x)
    (hv : v ≤ 16) {f : Temps → Temps} (hf : (f s.tmp).opcode = s.tmp.opcode) :
    Kept s ((s.fillLengths x i count v).withTmp f) := by
  have h5 : (BitVec.ofNat 5 v).toNat ≤ 16 := by
    rw [BitVec.toNat_ofNat, Nat.mod_eq_of_lt (by omega)]
    exact hv
  cases x with
  | main =>
    have hend : i + count ≤ 512 := hend
    have key : ∀ j : Fin 656, ((s.fillLengths .main i count v).withTmp f).mainLen[j]
        = if i ≤ j.val ∧ j.val < i + count then BitVec.ofNat 5 v else s.mainLen[j] := fun j =>
      fillVector_getElem s.mainLen i v count j.val j.isLt
    constructor
    · refine ⟨rfl, rfl, rfl, rfl, rfl, hf, rfl, rfl, rfl, rfl, rfl, rfl, rfl, rfl, rfl, rfl, fun j hj => ?_, rfl⟩
      rw [key, if_neg (by omega)]
    · intro hs
      refine ⟨hs.1, hs.2, fun j => ?_, hs.4, hs.5, hs.6, hs.7, hs.8⟩
      rw [key]
      split
      · exact ⟨h5, fun hj => by omega⟩
      · exact hs.3 j
  | length =>
    have hend : i + count ≤ 249 := hend
    have key : ∀ j : Fin 250, ((s.fillLengths .length i count v).withTmp f).lengthLen[j]
        = if i ≤ j.val ∧ j.val < i + count then BitVec.ofNat 5 v else s.lengthLen[j] := fun j =>
      fillVector_getElem s.lengthLen i v count j.val j.isLt
    constructor
    · refine ⟨rfl, rfl, rfl, rfl, rfl, hf, rfl, rfl, rfl, rfl, rfl, rfl, rfl, rfl, rfl, rfl, fun _ _ => rfl, ?_⟩
      exact (key ⟨249, by omega⟩).trans (if_neg (show ¬(i ≤ 249 ∧ 249 < i + count) by omega))
    · intro hs
      refine ⟨hs.1, hs.2, hs.3, fun j => ?_, hs.5, hs.6, hs.7, hs.8⟩
      rw [key]
      split
      · exact ⟨h5, fun hj => by omega⟩
      · exact hs.4 j

/-- All that a run of ReadLengths can do (43_lzx_blocks.md R147). -/
theorem writeRun_cases (count : Nat) (value : State → Nat) (s : State) :
    (¬s.itemDue ∧ writeRun count value s = .error (.halt .outOfContext) s) ∨
    (s.itemDue ∧ s.tmp.last < s.tmp.idx + count ∧
      writeRun count value s = .error (.raise .pretreeRunOvershoot) s) ∨
    (s.itemDue ∧ s.tmp.idx + count ≤ s.tmp.last ∧ writeRun count value s
      = .ok () ((s.fillLengths s.tmp.array s.tmp.idx count (value s)).withTmp
          fun t => { t with idx := t.idx + count })) := by
  unfold writeRun
  by_cases h1 : s.itemDue
  · rw [if_pos h1]
    by_cases h2 : s.tmp.last < s.tmp.idx + count
    · exact .inr (.inl ⟨h1, h2, if_pos h2⟩)
    · exact .inr (.inr ⟨h1, Nat.not_lt.1 h2, if_neg h2⟩)
  · exact .inl ⟨h1, if_neg h1⟩

theorem framed_writeRun {count : Nat} {value : State → Nat} (hv : ∀ s, value s ≤ 16) : Framed (writeRun count value) :=
  Framed.of_left fun s => by
    rcases writeRun_cases count value s with ⟨-, h⟩ | ⟨-, -, h⟩ | ⟨hd, hend, h⟩ <;> rw [h]
    · exact Kept.refl s
    · exact Kept.refl s
    · exact Kept.fillLengths s (Nat.le_trans hend hd.2) (hv s) (f := fun t => { t with idx := t.idx + count }) rfl

theorem framed_checkRun (count : Nat) : Framed (checkRun count) := Framed.of_left fun s => by
  unfold checkRun
  split <;> exact Kept.refl s

theorem framed_ptSame (z : BitVec 1) (s2 : BitVec 5) : Framed (doPtSame z s2) := by
  refine (framed_checkRun _).bind fun _ => ?_
  split
  · exact Framed.raise _
  · exact framed_writeRun fun s => deltaValue_le s _

/-! ## Literals, matches, raw bytes -/

/-- WINDOW_POSN moved within the window. -/
theorem Kept.moveWindow (s : State) {n : Nat} (hn : n = s.windowPosn.toNat ∨ n ≤ 65536) {f : Temps → Temps}
    (hf : (f s.tmp).opcode = s.tmp.opcode) :
    Kept s { s with windowPosn := BitVec.ofNat 17 n, tmp := f s.tmp } := by
  constructor
  · exact ⟨rfl, rfl, rfl, rfl, rfl, hf, rfl, rfl, rfl, rfl, rfl, rfl, rfl, rfl, rfl, rfl, fun _ _ => rfl, rfl⟩
  · intro hs
    refine ⟨hs.1, ?_, hs.3, hs.4, hs.5, hs.6, hs.7, hs.8⟩
    change (BitVec.ofNat 17 n).toNat ≤ 65536
    have : s.windowPosn.toNat ≤ 65536 := hs.2
    rw [BitVec.toNat_ofNat, Nat.mod_eq_of_lt (by rcases hn with h | h <;> omega)]
    rcases hn with h | h <;> omega

theorem framed_lit (c : Byte) : Framed (doLit c) := by
  refine Framed.of_left fun s => ?_
  rw [doLit, Proc.bind_get]
  split
  · exact Kept.refl s
  · by_cases h : s.windowPosn.toNat < 65536
    · rw [Proc.bind_of_ok (winWrite_of_lt c h)]
      exact Kept.preorder.trans (Kept.putWindow s h c)
        (Kept.moveWindow _ (n := s.windowPosn.toNat + 1) (f := fun t => { t with run := t.run - 1 }) (.inr h) rfl)
    · rw [Proc.bind_of_error (winWrite_of_le c (Nat.not_lt.1 h))]
      exact Kept.refl s

theorem framed_copyMatch : Framed copyMatch := Framed.of_left fun s => by
  rw [copyMatch, Proc.bind_get]
  cases h : copyLoop s.tmp.matchOff s.tmp.matchLen s.windowPosn.toNat s with
  | error e t =>
    rw [Proc.bind_of_error h]
    exact (framed_copyLoop _ _ _).error h
  | ok u t =>
    rw [Proc.bind_of_ok h]
    have hk := (framed_copyLoop _ _ _).ok h
    refine Kept.preorder.trans hk ?_
    have hp : t.windowPosn = s.windowPosn := by
      have key : ∀ (off n i : Nat) (s t : State), copyLoop off n i s = .ok () t → t.windowPosn = s.windowPosn := by
        intro off n
        induction n with
        | zero => intro i s t h; cases h; rfl
        | succ n ih =>
          intro i s t h
          rw [copyLoop] at h
          obtain ⟨b, s1, hr, h⟩ := Proc.bind_eq_ok.1 h
          obtain ⟨u, s2, hw, h⟩ := Proc.bind_eq_ok.1 h
          unfold winRead at hr
          unfold winWrite at hw
          split at hr
          · cases hr
            split at hw
            · cases hw
              have := ih _ _ _ h
              exact this
            · cases hw
          · cases hr
      exact key _ _ _ _ _ h
    refine Kept.moveWindow t (n := s.windowPosn.toNat + s.tmp.matchLen)
      (f := fun u => { u with run := u.run - s.tmp.matchLen }) ?_ rfl
    rcases copyLoop_end h with h0 | h0
    · left; rw [hp, h0, Nat.add_zero]
    · exact .inr h0

theorem framed_checkOffset : Framed checkOffset := Framed.of_left fun s => by
  unfold checkOffset
  split <;> exact Kept.refl s

theorem framed_checkLength : Framed checkLength := Framed.of_left fun s => by
  unfold checkLength
  split <;> exact Kept.refl s

theorem framed_finishMatch : Framed finishMatch :=
  framed_checkOffset.bind fun _ => framed_checkLength.bind fun _ => framed_copyMatch

theorem framed_matchLength (lh : BitVec 3) (footer : Option (BitVec 8)) : Framed (matchLength lh footer) := by
  unfold matchLength
  split <;> exact framed_update_other (fun _ => rfl) fun _ => rfl

theorem framed_setOffset (off : State → Nat) : Framed (setOffset off) :=
  framed_update_other (fun _ => rfl) fun _ => rfl

theorem framed_pushOffset : Framed pushOffset := framed_update_other (fun _ => rfl) fun _ => rfl

theorem framed_rawMatch (slot : Nat) (lh : BitVec 3) (footer : Option (BitVec 8)) (x : Nat) :
    Framed (rawMatch slot lh footer x) :=
  (framed_matchLength _ _).bind fun _ => (framed_setOffset _).bind fun _ => framed_pushOffset.bind fun _ =>
    framed_finishMatch

theorem framed_alignedTreeMatch (slot : Nat) (lh : BitVec 3) (footer : Option (BitVec 8)) (x : Nat) (a : BitVec 3) :
    Framed (alignedTreeMatch slot lh footer x a) :=
  (framed_matchLength _ _).bind fun _ => (framed_setOffset _).bind fun _ =>
    Framed.bind (by exact framed_update_other (fun _ => rfl) fun _ => rfl) fun _ => framed_pushOffset.bind fun _ => framed_finishMatch

theorem framed_matchS0 (lh : BitVec 3) (footer : Option (BitVec 8)) : Framed (doMatchS0 lh footer) :=
  (framed_matchLength _ _).bind fun _ => (framed_setOffset _).bind fun _ => framed_finishMatch

theorem framed_matchS1 (lh : BitVec 3) (footer : Option (BitVec 8)) : Framed (doMatchS1 lh footer) :=
  (framed_matchLength _ _).bind fun _ => (framed_setOffset _).bind fun _ =>
    Framed.bind (by exact framed_update_other (fun _ => rfl) fun _ => rfl) fun _ => framed_finishMatch

theorem framed_matchS2 (lh : BitVec 3) (footer : Option (BitVec 8)) : Framed (doMatchS2 lh footer) :=
  (framed_matchLength _ _).bind fun _ => (framed_setOffset _).bind fun _ =>
    Framed.bind (by exact framed_update_other (fun _ => rfl) fun _ => rfl) fun _ => framed_finishMatch

theorem readRaw_length {n : Nat} {s t : State} {bs : List Byte} (h : readRaw n s = .ok bs t) :
    bs.length = n ∧ t.windowPosn = s.windowPosn := by
  rcases readRaw_cases n s with ⟨-, h'⟩ | ⟨-, h'⟩ <;> rw [h'] at h <;> cases h
  exact ⟨by simp, rfl⟩

theorem writeWindow_posn {i : Nat} {bs : List Byte} {s t : State} (h : writeWindow i bs s = .ok () t) :
    t.windowPosn = s.windowPosn := by
  induction bs generalizing i s with
  | nil => cases h; rfl
  | cons b bs ih =>
    rw [writeWindow] at h
    obtain ⟨u, s2, hw, h⟩ := Proc.bind_eq_ok.1 h
    unfold winWrite at hw
    split at hw
    · cases hw
      have := ih h
      exact this
    · cases hw

theorem framed_uncompBytes : Framed doUncompBytes := Framed.of_left fun s => by
  rw [doUncompBytes, Proc.bind_get]
  split
  · exact Kept.refl s
  · cases h1 : readRaw s.tmp.run s with
    | error e t =>
      rw [Proc.bind_of_error h1]
      exact (framed_readRaw _).error h1
    | ok bs t =>
      rw [Proc.bind_of_ok h1]
      refine Kept.preorder.trans ((framed_readRaw _).ok h1) ?_
      obtain ⟨hl, hp⟩ := readRaw_length h1
      cases h2 : writeWindow s.windowPosn.toNat bs t with
      | error e u =>
        rw [Proc.bind_of_error h2]
        exact (framed_writeWindow _ _).error h2
      | ok x u =>
        rw [Proc.bind_of_ok h2]
        refine Kept.preorder.trans ((framed_writeWindow _ _).ok h2) ?_
        refine Kept.moveWindow u (n := s.windowPosn.toNat + s.tmp.run) (f := fun v => { v with run := 0 }) ?_ rfl
        rcases writeWindow_end h2 with h0 | h0
        · left
          rw [writeWindow_posn h2, hp, ← hl, h0]
          rfl
        · right
          rw [← hl]
          exact h0

/-! ## Every element -/

theorem framed_alignedLengths (a : Vector (BitVec 3) 8) : Framed (doAlignedLengths a) :=
  Framed.bind (by exact framed_update_other (fun _ => rfl) fun _ => rfl) fun _ => framed_buildTree _

theorem framed_pretree (p : Vector (BitVec 4) 20) : Framed (doPretree p) :=
  Framed.bind (by exact framed_update_other (fun _ => rfl) fun _ => rfl) fun _ => framed_buildTree _

theorem framed_transform (t : BitVec 1) : Framed (doTransform t) := by
  unfold doTransform
  split
  · exact framed_update_other (fun _ => rfl) fun _ => rfl
  · exact Framed.raise _

theorem framed_badBlock (type : BitVec 3) (size : BitVec 24) :
    Framed (blockHeader type size >>= fun _ => (raise .invalidBlockType : Proc Unit)) :=
  Framed.bind (by exact framed_update_other (fun _ => rfl) fun _ => rfl) fun _ => Framed.raise _

theorem framed_runElement (i : Instr) : Framed (runElement i) := by
  cases i with
  | seekAbs _ => exact Framed.halt _
  | seekRel _ => exact Framed.halt _
  | readBytes _ => exact Framed.halt _
  | peekBytes _ => exact Framed.halt _
  | getPos => exact Framed.halt _
  | regRead _ => exact Framed.halt _
  | arrayRead _ _ => exact Framed.halt _
  | readU8 => exact Framed.halt _
  | readI8 => exact Framed.halt _
  | readU16LE => exact Framed.halt _
  | readU16BE => exact Framed.halt _
  | readI16LE => exact Framed.halt _
  | readI16BE => exact Framed.halt _
  | readU32LE => exact Framed.halt _
  | readU32BE => exact Framed.halt _
  | readI32LE => exact Framed.halt _
  | readI32BE => exact Framed.halt _
  | readF32LE => exact Framed.halt _
  | readF32BE => exact Framed.halt _
  | readF64LE => exact Framed.halt _
  | readF64BE => exact Framed.halt _
  | read7Bit => exact Framed.halt _
  | readString => exact Framed.halt _
  | readLzxInt16 => exact Framed.halt _
  | readBits _ => exact Framed.halt _
  | peekBits _ => exact Framed.halt _
  | setBitPos _ => exact Framed.halt _
  | align => exact Framed.halt _
  | hufBuild _ _ _ => exact Framed.halt _
  | hufDecode => exact Framed.halt _
  | lzxReset => exact Framed.halt _
  | lzxDecompress _ _ => exact Framed.halt _
  | frmRun _ _ => exact Framed.halt _
  | load _ => exact Framed.halt _
  | reset => exact Framed.halt _
  | illegal _ => exact Framed.halt _
  | frmExplicit _ _ => exact framed_update_other (fun _ => rfl) fun _ => rfl
  | frmImplicit _ => exact framed_update_other (fun _ => rfl) fun _ => rfl
  | transform _ => exact framed_transform _
  | blockInvalid0 _ => exact framed_badBlock _ _
  | blockVerbatim _ => exact framed_update_other (fun _ => rfl) fun _ => rfl
  | blockAligned _ => exact framed_update_other (fun _ => rfl) fun _ => rfl
  | blockUncompressed _ => exact framed_update_other (fun _ => rfl) fun _ => rfl
  | blockInvalid4to7 _ _ => exact framed_badBlock _ _
  | alignedLengths _ => exact framed_alignedLengths _
  | pretree _ => exact framed_pretree _
  | ptDelta _ => exact framed_writeRun fun s => deltaValue_le s _
  | ptZ4 _ => exact framed_writeRun fun _ => Nat.zero_le _
  | ptZ20 _ => exact framed_writeRun fun _ => Nat.zero_le _
  | ptSame _ _ => exact framed_ptSame _ _
  | lit _ => exact framed_lit _
  | matchS0 _ _ => exact framed_matchS0 _ _
  | matchS1 _ _ => exact framed_matchS1 _ _
  | matchS2 _ _ => exact framed_matchS2 _ _
  | matchS3 _ _ => exact framed_rawMatch _ _ _ _
  | matchVS4 _ _ _ => exact framed_rawMatch _ _ _ _
  | matchVS5 _ _ _ => exact framed_rawMatch _ _ _ _
  | matchVS6 _ _ _ => exact framed_rawMatch _ _ _ _
  | matchVS7 _ _ _ => exact framed_rawMatch _ _ _ _
  | matchVS8 _ _ _ => exact framed_rawMatch _ _ _ _
  | matchVS9 _ _ _ => exact framed_rawMatch _ _ _ _
  | matchVS10 _ _ _ => exact framed_rawMatch _ _ _ _
  | matchVS11 _ _ _ => exact framed_rawMatch _ _ _ _
  | matchVS12 _ _ _ => exact framed_rawMatch _ _ _ _
  | matchVS13 _ _ _ => exact framed_rawMatch _ _ _ _
  | matchVS14 _ _ _ => exact framed_rawMatch _ _ _ _
  | matchVS15 _ _ _ => exact framed_rawMatch _ _ _ _
  | matchVS16 _ _ _ => exact framed_rawMatch _ _ _ _
  | matchVS17 _ _ _ => exact framed_rawMatch _ _ _ _
  | matchVS18 _ _ _ => exact framed_rawMatch _ _ _ _
  | matchVS19 _ _ _ => exact framed_rawMatch _ _ _ _
  | matchVS20 _ _ _ => exact framed_rawMatch _ _ _ _
  | matchVS21 _ _ _ => exact framed_rawMatch _ _ _ _
  | matchVS22 _ _ _ => exact framed_rawMatch _ _ _ _
  | matchVS23 _ _ _ => exact framed_rawMatch _ _ _ _
  | matchVS24 _ _ _ => exact framed_rawMatch _ _ _ _
  | matchVS25 _ _ _ => exact framed_rawMatch _ _ _ _
  | matchVS26 _ _ _ => exact framed_rawMatch _ _ _ _
  | matchVS27 _ _ _ => exact framed_rawMatch _ _ _ _
  | matchVS28 _ _ _ => exact framed_rawMatch _ _ _ _
  | matchVS29 _ _ _ => exact framed_rawMatch _ _ _ _
  | matchVS30 _ _ _ => exact framed_rawMatch _ _ _ _
  | matchVS31 _ _ _ => exact framed_rawMatch _ _ _ _
  | matchAS4 _ _ _ => exact framed_rawMatch _ _ _ _
  | matchAS5 _ _ _ => exact framed_rawMatch _ _ _ _
  | matchAS6 _ _ _ => exact framed_rawMatch _ _ _ _
  | matchAS7 _ _ _ => exact framed_rawMatch _ _ _ _
  | matchAS8 _ _ _ _ => exact framed_alignedTreeMatch _ _ _ _ _
  | matchAS9 _ _ _ _ => exact framed_alignedTreeMatch _ _ _ _ _
  | matchAS10 _ _ _ _ => exact framed_alignedTreeMatch _ _ _ _ _
  | matchAS11 _ _ _ _ => exact framed_alignedTreeMatch _ _ _ _ _
  | matchAS12 _ _ _ _ => exact framed_alignedTreeMatch _ _ _ _ _
  | matchAS13 _ _ _ _ => exact framed_alignedTreeMatch _ _ _ _ _
  | matchAS14 _ _ _ _ => exact framed_alignedTreeMatch _ _ _ _ _
  | matchAS15 _ _ _ _ => exact framed_alignedTreeMatch _ _ _ _ _
  | matchAS16 _ _ _ _ => exact framed_alignedTreeMatch _ _ _ _ _
  | matchAS17 _ _ _ _ => exact framed_alignedTreeMatch _ _ _ _ _
  | matchAS18 _ _ _ _ => exact framed_alignedTreeMatch _ _ _ _ _
  | matchAS19 _ _ _ _ => exact framed_alignedTreeMatch _ _ _ _ _
  | matchAS20 _ _ _ _ => exact framed_alignedTreeMatch _ _ _ _ _
  | matchAS21 _ _ _ _ => exact framed_alignedTreeMatch _ _ _ _ _
  | matchAS22 _ _ _ _ => exact framed_alignedTreeMatch _ _ _ _ _
  | matchAS23 _ _ _ _ => exact framed_alignedTreeMatch _ _ _ _ _
  | matchAS24 _ _ _ _ => exact framed_alignedTreeMatch _ _ _ _ _
  | matchAS25 _ _ _ _ => exact framed_alignedTreeMatch _ _ _ _ _
  | matchAS26 _ _ _ _ => exact framed_alignedTreeMatch _ _ _ _ _
  | matchAS27 _ _ _ _ => exact framed_alignedTreeMatch _ _ _ _ _
  | matchAS28 _ _ _ _ => exact framed_alignedTreeMatch _ _ _ _ _
  | matchAS29 _ _ _ _ => exact framed_alignedTreeMatch _ _ _ _ _
  | matchAS30 _ _ _ _ => exact framed_alignedTreeMatch _ _ _ _ _
  | matchAS31 _ _ _ _ => exact framed_alignedTreeMatch _ _ _ _ _
  | lenFoot _ => exact framed_update_other (fun _ => rfl) fun _ => rfl
  | alignSym _ => exact framed_update_other (fun _ => rfl) fun _ => rfl
  | streamAlign => exact framed_alignCursor
  | uncompReps _ _ _ => exact framed_update_other (fun _ => rfl) fun _ => rfl
  | uncompBytes => exact framed_uncompBytes

end Sys2Proof.Machine
end

