-- ==== Sys2Proof/Laws/EngineControl.lean ====
section
/-!
SUPPORT. What the fetch of an element, the engine's control and the framer keep (Laws/Engine.lean).
-/

namespace Sys2Proof.Machine

open Sys2Proof.Safety

/-! ## The fetch -/

theorem framed_readField (k : FieldKind) : Framed (readField k) := by
  cases k with
  | raw w => exact (framed_readBits w).bind fun _ => Framed.pure _
  | sym x => exact (framed_decodeTree x).bind fun _ => Framed.pure _

theorem framed_readFields (ks : List FieldKind) : Framed (readFields ks) := by
  induction ks with
  | nil => exact Framed.pure _
  | cons k ks ih => exact (framed_readField k).bind fun _ => ih.bind fun _ => Framed.pure _

theorem framed_decoded (fmt : Format) (fields : List Field) : Framed (decoded fmt fields) := by
  unfold decoded
  split
  · exact Framed.pure _
  · exact Framed.halt _

theorem framed_fetchChunkHeader : Framed fetchChunkHeader := by
  refine framed_readByte.bind fun c => ?_
  split
  · exact framed_lzxInt16.bind fun _ => framed_lzxInt16.bind fun _ => framed_decoded _ _
  · exact Framed.bind_get fun s => (Framed.of_left fun u => (framed_writeCursor _ _).left u).bind fun _ =>
      framed_lzxInt16.bind fun _ => framed_decoded _ _

theorem framed_fetchBlockHeader : Framed fetchBlockHeader := by
  refine (framed_readBits 3).bind fun type => Framed.bind (by exact framed_update_other (fun _ => rfl) fun _ => rfl)
    fun _ => (framed_readBits 16).bind fun _ => (framed_readBits 8).bind fun _ => framed_decoded _ _

theorem framed_readLengthFields (w : Nat) (latch : Nat → Nat → State → State)
    (h : ∀ i v s, Kept s (latch i v s)) (n i : Nat) : Framed (readLengthFields w latch n i) := by
  induction n generalizing i with
  | zero => exact Framed.pure _
  | succ n ih =>
    exact (framed_readBits w).bind fun v => (Framed.update (h i v)).bind fun _ => (ih _).bind fun _ => Framed.pure _

theorem framed_fetchAlignedLengths : Framed fetchAlignedLengths :=
  (framed_readLengthFields 3 latchAlignedLen (fun _ _ _ => Kept.other rfl rfl) 8 0).bind fun _ => framed_decoded _ _

theorem framed_fetchPretree : Framed fetchPretree :=
  (framed_readLengthFields 4 latchPretreeLen (fun _ _ _ => Kept.other rfl rfl) 20 0).bind fun _ => framed_decoded _ _

theorem framed_fetchPretreeItem : Framed fetchPretreeItem := by
  refine (framed_decodeTree _).bind fun sym => ?_
  split
  · exact (framed_readBits 1).bind fun z => (framed_checkRun _).bind fun _ => (framed_decodeTree _).bind fun s2 =>
      framed_decoded _ _
  · exact (framed_readFields _).bind fun _ => framed_decoded _ _

theorem framed_fetchMainItem : Framed fetchMainItem :=
  (framed_decodeTree _).bind fun _ => Framed.bind_get fun _ => (framed_readFields _).bind fun _ => framed_decoded _ _

theorem framed_readU32 : Framed readU32 := (framed_readRaw 4).bind fun _ => Framed.pure _

theorem framed_fetchUncompReps : Framed fetchUncompReps :=
  framed_readU32.bind fun _ => Framed.bind (by exact framed_update_other (fun _ => rfl) fun _ => rfl) fun _ =>
    framed_readU32.bind fun _ => Framed.bind (by exact framed_update_other (fun _ => rfl) fun _ => rfl) fun _ =>
      framed_readU32.bind fun _ => Framed.bind (by exact framed_update_other (fun _ => rfl) fun _ => rfl) fun _ =>
        framed_decoded _ _

theorem framed_fetchElement (k : ElemKind) : Framed (fetchElement k) := by
  cases k with
  | chunkHeader => exact framed_fetchChunkHeader
  | transform => exact (framed_readField _).bind fun _ => framed_decoded _ _
  | blockHeader => exact framed_fetchBlockHeader
  | alignedLengths => exact framed_fetchAlignedLengths
  | pretree => exact framed_fetchPretree
  | pretreeItem => exact framed_fetchPretreeItem
  | mainItem => exact framed_fetchMainItem
  | lengthFooter => exact (framed_readField _).bind fun _ => framed_decoded _ _
  | alignedSymbol => exact (framed_readField _).bind fun _ => framed_decoded _ _
  | align => exact framed_decoded .align []
  | uncompReps => exact framed_fetchUncompReps
  | uncompBytes => exact framed_decoded .uncompBytes []

theorem framed_runNext (k : ElemKind) : Framed (runNext k) :=
  (framed_fetchElement k).bind fun i => framed_runElement i

/-! ## The engine -/

theorem framed_sessionHeader : Framed sessionHeader := by
  refine Framed.bind_get fun s => ?_
  split
  · exact Framed.pure _
  · exact framed_runNext _

theorem framed_pretreeItems (n : Nat) : Framed (pretreeItems n) := by
  induction n with
  | zero =>
    refine Framed.of_left fun s => ?_
    unfold pretreeItems
    split <;> exact Kept.refl s
  | succ n ih =>
    refine Framed.bind_get fun s => ?_
    split
    · exact (framed_runNext _).bind fun _ => ih
    · exact Framed.pure _

theorem framed_readLengths (x : LenArray) (first last : Nat) : Framed (readLengths x first last) :=
  (framed_runNext _).bind fun _ => Framed.bind (by exact framed_update_other (fun _ => rfl) fun _ => rfl) fun _ =>
    framed_pretreeItems _

theorem framed_verbatimTrees : Framed verbatimTrees :=
  (framed_readLengths _ _ _).bind fun _ => (framed_readLengths _ _ _).bind fun _ => (framed_buildTree _).bind fun _ =>
    (framed_readLengths _ _ _).bind fun _ => framed_buildTree _

theorem framed_readBlockHeader : Framed readBlockHeader := by
  refine (framed_runNext _).bind fun _ => Framed.bind_get fun s => ?_
  split
  · exact (framed_runNext _).bind fun _ => framed_verbatimTrees
  · split
    · exact framed_verbatimTrees
    · split
      · exact (framed_runNext _).bind fun _ => framed_runNext _
      · exact Framed.raise _

theorem framed_compressedRun (n : Nat) : Framed (compressedRun n) := by
  induction n with
  | zero =>
    refine Framed.of_left fun s => ?_
    unfold compressedRun
    split <;> exact Kept.refl s
  | succ n ih =>
    refine Framed.bind_get fun s => ?_
    split
    · exact (framed_runNext _).bind fun _ => ih
    · exact Framed.pure _

/-- The state in which a run starts (43_lzx_blocks.md R142). -/
def State.atRun (s : State) (run : Nat) : State :=
  { s with
    blockRemaining := BitVec.ofNat 24 (s.blockRemaining.toNat - run)
    windowPosn := BitVec.ofNat 17 (s.windowPosn.toNat % 65536)
    tmp := { s.tmp with togo := s.tmp.togo - run, run := run } }

theorem State.atRun_posn (s : State) (run : Nat) : (s.atRun run).windowPosn.toNat = s.windowPosn.toNat % 65536 := by
  change (BitVec.ofNat 17 (s.windowPosn.toNat % 65536)).toNat = _
  rw [BitVec.toNat_ofNat]
  exact Nat.mod_eq_of_lt (by omega)

theorem startRun_run (run : Nat) (s : State) :
    startRun run s = if 65536 < s.windowPosn.toNat % 65536 + run then .error (.raise .windowOverrun) (s.atRun run)
      else .ok () (s.atRun run) := by
  rw [← State.atRun_posn s run]
  rfl

theorem Kept.atRun (s : State) (run : Nat) : Kept s (s.atRun run) :=
  Kept.preorder.trans (t := { s with blockRemaining := BitVec.ofNat 24 (s.blockRemaining.toNat - run) })
    (Kept.other rfl rfl)
    (Kept.moveWindow _ (n := s.windowPosn.toNat % 65536)
      (f := fun t => { t with togo := t.togo - run, run := run }) (.inr (by omega)) rfl)

theorem framed_startRun (run : Nat) : Framed (startRun run) := Framed.of_left fun s => by
  rw [startRun_run]
  split <;> exact Kept.atRun s run

theorem framed_runStep : Framed runStep := by
  refine Framed.bind_get fun s => ?_
  dsimp only
  split
  · exact Framed.pure _
  · refine (framed_startRun _).bind fun _ => ?_
    split
    · exact framed_compressedRun _
    · exact framed_runNext _

theorem framed_frameLoop (n : Nat) : Framed (frameLoop n) := by
  induction n with
  | zero =>
    refine Framed.of_left fun s => ?_
    unfold frameLoop
    split <;> exact Kept.refl s
  | succ n ih =>
    refine Framed.bind_get fun s => ?_
    split
    · dsimp only
      split
      · exact framed_readBlockHeader.bind fun _ => framed_runStep.bind fun _ => ih
      · exact framed_runStep.bind fun _ => ih
    · exact Framed.pure _

theorem framed_frameOutput (fs : Nat) : Framed (frameOutput fs) := Framed.bind_get fun _ => framed_readWindow _

theorem framed_decompress (fs bs : Nat) : Framed (decompress fs bs) :=
  Framed.bind (by exact framed_update_other (fun _ => rfl) fun _ => rfl) fun _ => framed_sessionHeader.bind fun _ =>
    Framed.bind (by exact framed_update_other (fun _ => rfl) fun _ => rfl) fun _ => Framed.bind_get fun _ =>
      (framed_frameLoop _).bind fun _ => framed_alignCursor.bind fun _ => framed_frameOutput _

theorem framed_doLzxDecompress (fs bs : U32) : Framed (doLzxDecompress fs bs) := by
  unfold doLzxDecompress
  split
  · exact Framed.raise _
  · exact (framed_decompress _ _).bind fun _ => Framed.pure _

/-! ## The framer -/

theorem framed_chunkLoop (clen n : Nat) : Framed (chunkLoop clen n) := by
  induction n with
  | zero =>
    refine Framed.of_left fun s => ?_
    unfold chunkLoop
    split <;> exact Kept.refl s
  | succ n ih =>
    refine Framed.bind_get fun s => ?_
    split
    · refine (framed_runNext _).bind fun _ => Framed.bind_get fun t => ?_
      dsimp only
      split
      · exact Framed.pure _
      · split
        · exact Framed.raise _
        · exact (framed_decompress _ _).bind fun _ =>
            Framed.bind (by exact framed_update_other (fun _ => rfl) fun _ => rfl) fun _ => ih
    · exact Framed.pure _

theorem framed_doFrmRun (clen dlen : U32) : Framed (doFrmRun clen dlen) := by
  refine Framed.bind (by exact framed_update_other (fun _ => rfl) fun _ => rfl) fun _ =>
    (framed_chunkLoop _ _).bind fun _ => Framed.bind_get fun s => ?_
  split
  · exact Framed.pure _
  · exact Framed.raise _

end Sys2Proof.Machine
end

