-- ==== Sys2Proof/Laws/Outcome.lean ====
section
/-!
SUPPORT. Which procedure each instruction runs, and what the outcome of a command can be: it records what
60_exceptions.md R175 says, and no other procedure writes the fault registers.
-/

namespace Sys2Proof

/-- An opcode outside the map is illegal (30_encoding.md R69). -/
theorem decodeCommand_illegal {c : Command} (h : c.opcode ∉ legalOpcodes) : decodeCommand c = .illegal c.opcode := by
  unfold decodeCommand
  split
  case h_36 => rfl
  all_goals exact absurd (by rw [‹c.opcode = _›]; decide) h

/-- Every record has an opcode of the map, one at a time, or an illegal one. -/
theorem opcode_cases (c : Command) :
    c.opcode ∉ legalOpcodes ∨
    (c.opcode = 0x01 ∨ c.opcode = 0x02 ∨ c.opcode = 0x03 ∨ c.opcode = 0x04 ∨ c.opcode = 0x05 ∨ c.opcode = 0x06 ∨
      c.opcode = 0x07) ∨
    (c.opcode = 0x10 ∨ c.opcode = 0x11 ∨ c.opcode = 0x12 ∨ c.opcode = 0x13 ∨ c.opcode = 0x14 ∨ c.opcode = 0x15 ∨
      c.opcode = 0x16 ∨ c.opcode = 0x17 ∨ c.opcode = 0x18 ∨ c.opcode = 0x19 ∨ c.opcode = 0x1A ∨ c.opcode = 0x1B ∨
      c.opcode = 0x1C ∨ c.opcode = 0x1D) ∨
    (c.opcode = 0x20 ∨ c.opcode = 0x21 ∨ c.opcode = 0x22 ∨ c.opcode = 0x30 ∨ c.opcode = 0x31 ∨ c.opcode = 0x32 ∨
      c.opcode = 0x33) ∨
    (c.opcode = 0x40 ∨ c.opcode = 0x41 ∨ c.opcode = 0x50 ∨ c.opcode = 0x51 ∨ c.opcode = 0x60 ∨ c.opcode = 0x70 ∨
      c.opcode = 0x7F) := by
  by_cases h : c.opcode ∈ legalOpcodes
  · right
    simpa only [legalOpcodes, List.mem_cons, List.not_mem_nil, or_false, or_assoc] using h
  · exact .inl h

end Sys2Proof

namespace Sys2Proof.Machine

open Sys2Proof.Safety

/-! ## The procedures of the commands -/

/-- What no command but RESET writes: the fault registers, the parameters, the requests, and the opcode it has in its
temporaries. -/
structure RecordFrame (s t : State) : Prop where
  params : t.params = s.params
  pending : t.pending = s.pending
  opcode : t.tmp.opcode = s.tmp.opcode
  faulted : t.faulted = s.faulted
  faultClass : t.faultClass = s.faultClass
  faultCause : t.faultCause = s.faultCause
  faultOpcode : t.faultOpcode = s.faultOpcode
  faultByteOffset : t.faultByteOffset = s.faultByteOffset
  faultBitOffset : t.faultBitOffset = s.faultBitOffset

theorem RecordFrame.preorder : Preorder RecordFrame where
  refl _ := ⟨rfl, rfl, rfl, rfl, rfl, rfl, rfl, rfl, rfl⟩
  trans h k := ⟨k.1.trans h.1, k.2.trans h.2, k.3.trans h.3, k.4.trans h.4, k.5.trans h.5, k.6.trans h.6,
    k.7.trans h.7, k.8.trans h.8, k.9.trans h.9⟩

/-- A procedure that keeps that frame. -/
abbrev Recorded {α : Type} (p : Proc α) : Prop := Keeps (fun _ => True) RecordFrame p

theorem EngineFrame.record {s t : State} (h : EngineFrame s t) : RecordFrame s t :=
  ⟨h.params, h.pending, h.opcode, h.faulted, h.faultClass, h.faultCause, h.faultOpcode, h.faultByteOffset,
    h.faultBitOffset⟩

theorem Framed.recorded {α : Type} {p : Proc α} (h : Framed p) : Recorded p :=
  fun s _ => ⟨trivial, (h.left s).1.record⟩

theorem framed_doSeekAbs (a : U32) : Framed (doSeekAbs a) :=
  (Framed.of_left fun s => (framed_writeCursor _ _).left s).bind fun _ => Framed.pure _

theorem framed_doSeekRel (d : U32) : Framed (doSeekRel d) :=
  Framed.bind_get fun _ => (Framed.of_left fun s => (framed_writeCursor _ _).left s).bind fun _ => Framed.pure _

theorem framed_doReadBytes (n : U32) : Framed (doReadBytes n) := (framed_readRaw _).bind fun _ => Framed.pure _

theorem framed_doPeekBytes (n : U32) : Framed (doPeekBytes n) :=
  Framed.bind_get fun _ => (framed_memRead _ _).bind fun _ => Framed.pure _

theorem framed_doGetPos : Framed doGetPos := Framed.bind_get fun _ => Framed.pure _

theorem framed_doRegRead (a : U32) : Framed (doRegRead a) := by
  refine Framed.bind_get fun s => ?_
  split
  · exact Framed.pure _
  · exact Framed.raise _

theorem framed_doArrayRead (a b : U32) : Framed (doArrayRead a b) := by
  refine Framed.bind_get fun s => ?_
  split
  · exact Framed.pure _
  · exact Framed.raise _

theorem framed_readNumber (n : Nat) (f : List Byte → Result) : Framed (readNumber n f) :=
  (framed_readRaw n).bind fun _ => Framed.pure _

theorem framed_doRead7Bit : Framed doRead7Bit := framed_readVarint.bind fun _ => Framed.pure _

theorem framed_doReadString : Framed doReadString :=
  framed_readVarint.bind fun _ => (framed_readRaw _).bind fun _ => Framed.pure _

theorem framed_doReadLzxInt16 : Framed doReadLzxInt16 := framed_lzxInt16.bind fun _ => Framed.pure _

theorem framed_doReadBits (n : U32) : Framed (doReadBits n) := by
  unfold doReadBits
  split
  · exact Framed.raise _
  · exact (framed_readBits _).bind fun _ => Framed.pure _

theorem framed_doPeekBits (n : U32) : Framed (doPeekBits n) := by
  unfold doPeekBits
  split
  · exact Framed.raise _
  · exact (framed_peekBits _).bind fun _ => Framed.pure _

theorem framed_doSetBitPos (v : U32) : Framed (doSetBitPos v) := (framed_setBitPos _).bind fun _ => Framed.pure _

theorem framed_doAlign : Framed doAlign := framed_alignCursor.bind fun _ => Framed.pure _

theorem framed_doHufDecode : Framed doHufDecode := by
  refine Framed.bind_get fun s => ?_
  split
  · exact (framed_decodeSym _ _ _).bind fun _ => Framed.pure _
  · exact Framed.raise _

/-- The state in which HUF_BUILD builds: the operands are kept and the table is cleared (42_huffman.md R135). -/
def State.withHost (s : State) (n tb : U32) (data : List Byte) : State :=
  { s with
    hostN := BitVec.ofNat 11 n.toNat
    hostTb := BitVec.ofNat 5 tb.toNat
    hostLen := writeLengths s.hostLen 0 (data.map (·.toNat))
    hostTable := { valid := false, leaves := [] } }

/-- All that HUF_BUILD can do (42_huffman.md R135). -/
theorem doHufBuild_cases (n tb : U32) (data : List Byte) (s : State) :
    (hufOperandsOk n.toNat tb.toNat data = false ∧ doHufBuild n tb data s = .error (.raise .badOperand) s) ∨
    (hufOperandsOk n.toNat tb.toNat data = true ∧
      ((∃ c, buildTable s.params.emptyTreeAccept tb.toNat (s.withHost n tb data).hostLengths = .error c ∧
          doHufBuild n tb data s = .error (.raise c) (s.withHost n tb data)) ∨
        ∃ t, buildTable s.params.emptyTreeAccept tb.toNat (s.withHost n tb data).hostLengths = .ok t ∧
          doHufBuild n tb data s
            = .ok .empty { s.withHost n tb data with hostTable := { valid := true, leaves := t } })) := by
  unfold doHufBuild
  cases hok : hufOperandsOk n.toNat tb.toNat data with
  | false => exact .inl ⟨rfl, rfl⟩
  | true =>
    have key : (if true = true then
          (do
            update fun s => s.withHost n tb data
            let s ← get
            match buildTable s.params.emptyTreeAccept tb.toNat s.hostLengths with
            | .error c => raise c
            | .ok t =>
              update fun s => { s with hostTable := { valid := true, leaves := t } }
              return .empty : Proc Result)
        else raise .badOperand) s
          = match buildTable s.params.emptyTreeAccept tb.toNat (s.withHost n tb data).hostLengths with
            | .error c => .error (.raise c) (s.withHost n tb data)
            | .ok t => .ok .empty { s.withHost n tb data with hostTable := { valid := true, leaves := t } } := by
      rw [if_pos rfl, Proc.bind_update, Proc.bind_get]
      change (match buildTable s.params.emptyTreeAccept tb.toNat (s.withHost n tb data).hostLengths with
        | .error c => raise c
        | .ok t => _ : Proc Result) (s.withHost n tb data) = _
      cases buildTable s.params.emptyTreeAccept tb.toNat (s.withHost n tb data).hostLengths <;> rfl
    refine .inr ⟨rfl, ?_⟩
    cases hb : buildTable s.params.emptyTreeAccept tb.toNat (s.withHost n tb data).hostLengths with
    | error c => exact .inl ⟨c, rfl, by rw [hb] at key; exact key⟩
    | ok t => exact .inr ⟨t, rfl, by rw [hb] at key; exact key⟩

theorem recorded_doHufBuild (n tb : U32) (data : List Byte) : Recorded (doHufBuild n tb data) := by
  unfold doHufBuild
  split
  · refine Keeps.bind RecordFrame.preorder (Keeps.update fun _ _ => ⟨trivial, ?_⟩) fun _ =>
      Keeps.bind RecordFrame.preorder (Keeps.get RecordFrame.preorder) fun _ => ?_
    · exact ⟨rfl, rfl, rfl, rfl, rfl, rfl, rfl, rfl, rfl⟩
    · split
      · exact Keeps.raise RecordFrame.preorder _
      · exact Keeps.bind RecordFrame.preorder
          (Keeps.update fun s _ => ⟨trivial, rfl, rfl, rfl, rfl, rfl, rfl, rfl, rfl, rfl⟩)
          fun _ => Keeps.pure RecordFrame.preorder _
  · exact Keeps.raise RecordFrame.preorder _

theorem recorded_doLoad (data : List Byte) : Recorded (doLoad data) := by
  unfold doLoad
  split
  · exact Keeps.raise RecordFrame.preorder _
  · exact Keeps.bind RecordFrame.preorder
      (Keeps.update fun s _ => ⟨trivial, rfl, rfl, rfl, rfl, rfl, rfl, rfl, rfl, rfl⟩)
      fun _ => Keeps.pure RecordFrame.preorder _

theorem recorded_doLzxReset : Recorded doLzxReset :=
  Keeps.bind RecordFrame.preorder
    (Keeps.update fun _ _ => ⟨trivial, rfl, rfl, rfl, rfl, rfl, rfl, rfl, rfl, rfl⟩)
    fun _ => Keeps.pure RecordFrame.preorder _

/-! ## Commands and elements -/

/-- Every command but the observations and RESET runs a procedure that keeps the record, under its own opcode. -/
theorem exec_command {c : Command} (h6 : c.opcode ≠ 0x06) (h7 : c.opcode ≠ 0x07) (hr : c.opcode ≠ 0x7F) :
    ∃ p : Proc Result, Recorded p ∧ ∀ s, exec (decodeCommand c) s = command c.opcode p s := by
  obtain ⟨op, a, b, data⟩ := c
  rcases opcode_cases ⟨op, a, b, data⟩ with h | h | h | h | h
  · rw [decodeCommand_illegal h]
    exact ⟨doIllegal, (Framed.raise _).recorded, fun _ => rfl⟩
  · rcases h with rfl | rfl | rfl | rfl | rfl | rfl | rfl
    · exact ⟨doSeekAbs a, (framed_doSeekAbs _).recorded, fun _ => rfl⟩
    · exact ⟨doSeekRel a, (framed_doSeekRel _).recorded, fun _ => rfl⟩
    · exact ⟨doReadBytes a, (framed_doReadBytes _).recorded, fun _ => rfl⟩
    · exact ⟨doPeekBytes a, (framed_doPeekBytes _).recorded, fun _ => rfl⟩
    · exact ⟨doGetPos, framed_doGetPos.recorded, fun _ => rfl⟩
    · exact absurd rfl h6
    · exact absurd rfl h7
  · rcases h with rfl | rfl | rfl | rfl | rfl | rfl | rfl | rfl | rfl | rfl | rfl | rfl | rfl | rfl
    all_goals exact ⟨_, (framed_readNumber _ _).recorded, fun _ => rfl⟩
  · rcases h with rfl | rfl | rfl | rfl | rfl | rfl | rfl
    · exact ⟨doRead7Bit, framed_doRead7Bit.recorded, fun _ => rfl⟩
    · exact ⟨doReadString, framed_doReadString.recorded, fun _ => rfl⟩
    · exact ⟨doReadLzxInt16, framed_doReadLzxInt16.recorded, fun _ => rfl⟩
    · exact ⟨doReadBits a, (framed_doReadBits _).recorded, fun _ => rfl⟩
    · exact ⟨doPeekBits a, (framed_doPeekBits _).recorded, fun _ => rfl⟩
    · exact ⟨doSetBitPos a, (framed_doSetBitPos _).recorded, fun _ => rfl⟩
    · exact ⟨doAlign, framed_doAlign.recorded, fun _ => rfl⟩
  · rcases h with rfl | rfl | rfl | rfl | rfl | rfl | rfl
    · exact ⟨doHufBuild a b data, recorded_doHufBuild _ _ _, fun _ => rfl⟩
    · exact ⟨doHufDecode, framed_doHufDecode.recorded, fun _ => rfl⟩
    · exact ⟨doLzxReset, recorded_doLzxReset, fun _ => rfl⟩
    · exact ⟨doLzxDecompress a b, (framed_doLzxDecompress _ _).recorded, fun _ => rfl⟩
    · exact ⟨doFrmRun a b, (framed_doFrmRun _ _).recorded, fun _ => rfl⟩
    · exact ⟨doLoad data, recorded_doLoad _, fun _ => rfl⟩
    · exact absurd rfl hr

/-- An element runs the procedure by which the engine runs it inside a command. -/
theorem exec_element {i : Instr} {fmt : Format} {fields : List Field} (h : encode i = .element fmt fields) (s : State) :
    exec i s = element (runElement i) s := by
  cases i
  all_goals first
    | rfl
    | exact absurd h (by intro h; cases h)

end Sys2Proof.Machine
end

