-- ==== Sys2Proof/Laws/Bytes.lean ====
section
/-!
SUPPORT. The bytes at the byte cursor: the model's numbers as the sums of 20_memory.md R47 and R48, two's complement,
and the loop of READ_7BIT.
-/

namespace Sys2Proof.Machine

open Sys2Proof.Safety

theorem skipped_eq_withCursor (s : State) (n : Nat) : skipped s n = s.withCursor (s.byteOff + n) s.bitOff := by
  simp [skipped, State.withCursor]

theorem positioned_eq_withCursor (s : State) (b k : Nat) : positioned s b k = s.withCursor b k := rfl

theorem bytesAhead_eq (s : State) (n : Nat) : bytesAhead s n = s.storeBytes s.byteOff n := rfl

theorem State.storeBytes_succ (s : State) (a n : Nat) :
    s.storeBytes a (n + 1) = s.storeBytes a n ++ [s.storeByte (a + n)] := by
  simp [State.storeBytes, List.range_succ]

theorem State.storeBytes_getD (s : State) (a : Nat) {n i : Nat} (h : i < n) :
    (s.storeBytes a n).getD i 0 = s.storeByte (a + i) := by
  rw [List.getD_eq_getElem _ _ (by simpa using h)]
  simp

/-! ## Numbers -/

theorem leNat_eq_sum (bs : List Byte) :
    leNat bs = ((List.range bs.length).map fun i => (bs.getD i 0).toNat * 2 ^ (8 * i)).sum := by
  induction bs with
  | nil => rfl
  | cons b bs ih =>
    rw [leNat, ih, List.length_cons, List.range_succ_eq_map, List.map_cons, List.sum_cons, List.map_map]
    congr 1
    · simp
    · rw [← List.sum_map_mul_left]
      congr 1
      apply List.map_congr_left
      intro i _
      have e : 8 * (i + 1) = 8 + 8 * i := by omega
      simp only [Function.comp, List.getD_cons_succ, e]
      rw [Nat.pow_add]
      ring

theorem beNat_append (bs : List Byte) (b : Byte) : beNat (bs ++ [b]) = 256 * beNat bs + b.toNat := by
  simp [beNat]

/-- Little-endian numbers are the sum of 20_memory.md R47. -/
theorem leNat_store (s : State) (n : Nat) : leNat (s.storeBytes s.byteOff n) = littleEndian s n := by
  rw [leNat_eq_sum, State.storeBytes_length, littleEndian]
  congr 1
  apply List.map_congr_left
  intro i hi
  rw [State.storeBytes_getD _ _ (List.mem_range.1 hi)]

/-- Big-endian numbers are the sum of 20_memory.md R48. -/
theorem beNat_store (s : State) (n : Nat) : beNat (s.storeBytes s.byteOff n) = bigEndian s n := by
  unfold bigEndian
  induction n with
  | zero => rfl
  | succ n ih =>
    rw [State.storeBytes_succ, beNat_append, ih, List.range_succ, List.map_append, List.sum_append]
    congr 1
    · rw [← List.sum_map_mul_left]
      congr 1
      apply List.map_congr_left
      intro i hi
      have hi := List.mem_range.1 hi
      have e : 8 * (n + 1 - 1 - i) = 8 * (n - 1 - i) + 8 := by omega
      rw [e, Nat.pow_add]
      ring
    · simp

theorem littleEndian_lt (s : State) (n : Nat) : littleEndian s n < 2 ^ (8 * n) := by
  rw [← leNat_store]
  have key : ∀ bs : List Byte, leNat bs < 2 ^ (8 * bs.length) := by
    intro bs
    induction bs with
    | nil => simp [leNat]
    | cons b bs ih =>
      rw [leNat, List.length_cons, Nat.mul_add, Nat.pow_add]
      have := b.isLt
      omega
  simpa using key (s.storeBytes s.byteOff n)

theorem bigEndian_lt (s : State) (n : Nat) : bigEndian s n < 2 ^ (8 * n) := by
  rw [← beNat_store]
  induction n with
  | zero => simp [beNat, State.storeBytes]
  | succ n ih =>
    rw [State.storeBytes_succ, beNat_append, Nat.mul_add, Nat.pow_add]
    have := (s.storeByte (s.byteOff + n)).isLt
    omega

/-- Two's complement (00_scope.md R10). -/
theorem sext_eq_signed {w v : Nat} (h : v < 2 ^ w) : sext w v = signed w v := by
  unfold sext signed
  rw [BitVec.toInt_eq_toNat_cond, BitVec.toNat_ofNat, Nat.mod_eq_of_lt h]
  rcases w with _ | w
  · simp at h
    subst h
    simp
  · rw [Nat.add_sub_cancel]
    have hp : 2 ^ (w + 1) = 2 * 2 ^ w := by rw [Nat.pow_succ, Nat.mul_comm]
    by_cases hv : v < 2 ^ w
    · rw [if_pos hv, if_pos (by rw [hp]; omega)]
    · rw [if_neg hv, if_neg (by rw [hp]; omega)]
      push_cast
      rfl

theorem toInt_eq_signed (v : U32) : v.toInt = signed 32 v.toNat := by
  rw [← sext_eq_signed v.isLt, sext, BitVec.ofNat_toNat, BitVec.setWidth_eq]

/-! ## 7-bit integers -/

/-- The value of groups of 7 bits (41_buffer.md R115), one more byte. -/
theorem varint_succ (s : State) (k : Nat) :
    varint s (k + 1) = varint s k + (s.storeByte (s.byteOff + k)).toNat % 128 * 2 ^ (7 * k) := by
  simp [varint, List.range_succ]

/-- `k` bytes with continuation bits are passed by the loop of READ_7BIT. -/
theorem varintLoop_continued {s : State} {k n : Nat} (h : continued s k) :
    varintLoop (n + k) 0 0 s = varintLoop n k (varint s k) (s.withCursor (s.byteOff + k) s.bitOff) := by
  induction k generalizing n with
  | zero => rw [Nat.add_zero, Nat.add_zero, State.withCursor_self]; rfl
  | succ k ih =>
    have hle : s.byteOff + k < s.storeLen.toNat := Nat.lt_of_lt_of_le (Nat.lt_succ_self _) h.1
    have hlt : s.byteOff + k < 4294967296 := Nat.lt_trans hle s.storeLen.isLt
    have hc := h.2 k (Nat.lt_succ_self k)
    rw [show n + (k + 1) = n + 1 + k by omega, ih ⟨Nat.le_of_lt hle, fun i hi => h.2 i (by omega)⟩, varintLoop]
    have hb : (s.withCursor (s.byteOff + k) s.bitOff).byteOff = s.byteOff + k := State.withCursor_byteOff _ _ hlt
    have hr := readByte_of_lt (s := s.withCursor (s.byteOff + k) s.bitOff) (by rw [hb]; exact hle)
    rw [hb] at hr
    rw [Proc.bind_of_ok hr, varint_succ, State.withCursor_withCursor, State.withCursor_bitOff _ _ s.bitOff_lt]
    exact congrFun (if_neg (Nat.not_lt.2 hc)) _

/-- READ_7BIT on an integer of `k + 1` bytes (41_buffer.md R115). -/
theorem readVarint_of_ahead {s : State} {k : Nat} (h : varintAhead s k) :
    readVarint s = .ok (varint s (k + 1)) (s.withCursor (s.byteOff + (k + 1)) s.bitOff) := by
  obtain ⟨hk, hc, hle, hlast⟩ := h
  have hlt : s.byteOff + k < 4294967296 := Nat.lt_trans hle s.storeLen.isLt
  have hb : (s.withCursor (s.byteOff + k) s.bitOff).byteOff = s.byteOff + k := State.withCursor_byteOff _ _ hlt
  have hr := readByte_of_lt (s := s.withCursor (s.byteOff + k) s.bitOff) (by rw [hb]; exact hle)
  rw [hb] at hr
  rw [readVarint, show 5 = 4 - k + 1 + k by omega, varintLoop_continued hc, varintLoop, Proc.bind_of_ok hr,
    varint_succ, State.withCursor_withCursor, State.withCursor_bitOff _ _ s.bitOff_lt]
  exact congrFun (if_pos hlast) _

/-- READ_7BIT on five continued bytes (41_buffer.md R115). -/
theorem readVarint_unterminated {s : State} (h : continued s 5) :
    readVarint s = .error (.raise .noTerminator) (s.withCursor (s.byteOff + 5) s.bitOff) :=
  varintLoop_continued (n := 0) h

/-- READ_7BIT that meets the end of STORE after `k` continued bytes (41_buffer.md R115). -/
theorem readVarint_short {s : State} {k : Nat} (hk : k < 5) (h : continued s k)
    (hend : s.storeLen.toNat ≤ s.byteOff + k) :
    readVarint s = .error (.raise .readPastEnd) (s.withCursor (s.byteOff + k) s.bitOff) := by
  have hlt : s.byteOff + k < 4294967296 := Nat.lt_of_le_of_lt h.1 s.storeLen.isLt
  have hb : (s.withCursor (s.byteOff + k) s.bitOff).byteOff = s.byteOff + k := State.withCursor_byteOff _ _ hlt
  rw [readVarint, show 5 = 4 - k + 1 + k by omega, varintLoop_continued h, varintLoop]
  exact Proc.bind_of_error (readByte_of_le (by rw [hb]; exact hend))

/-- READ_7BIT with the cursor past the end of STORE. -/
theorem readVarint_past {s : State} (h : s.storeLen.toNat < s.byteOff) :
    readVarint s = .error (.raise .readPastEnd) s :=
  Proc.bind_of_error (readByte_of_le (Nat.le_of_lt h))

end Sys2Proof.Machine
end

