-- ==== Sys2Proof/Laws/Matches.lean ====
section
/-!
SUPPORT. Matches: their length, offset and cache as one state, and the four ways their common end can go
(44_lzx_decode.md R150, R153 to R162).
-/

namespace Sys2Proof.Machine

open Sys2Proof.Safety

theorem copySource_eq_sourceCell (i : Nat) {off : Nat} (h : off ≤ 65536) : copySource i off = sourceCell i off := by
  unfold copySource sourceCell windowSize
  omega

/-! ## The cache -/

theorem cacheAfter_window (s : State) (len : Nat) (src : OffsetSource) : (cacheAfter s len src).window = s.window := by
  rcases src with ⟨k, hk⟩ | off
  · interval_cases k <;> rfl
  · rfl

theorem cacheAfter_windowPosn (s : State) (len : Nat) (src : OffsetSource) :
    (cacheAfter s len src).windowPosn = s.windowPosn := by
  rcases src with ⟨k, hk⟩ | off
  · interval_cases k <;> rfl
  · rfl

theorem cacheAfter_tmp (s : State) (len : Nat) (src : OffsetSource) :
    (cacheAfter s len src).tmp = { s.tmp with matchLen := len, matchOff := offsetOf s src } := by
  rcases src with ⟨k, hk⟩ | off
  · interval_cases k <;> rfl
  · rfl

theorem cacheAfter_faulted (s : State) (len : Nat) (src : OffsetSource) : (cacheAfter s len src).faulted = s.faulted := by
  rcases src with ⟨k, hk⟩ | off
  · interval_cases k <;> rfl
  · rfl

/-! ## From the fields of a match to its end -/

theorem matchLength_run (lh : BitVec 3) (f : Option (BitVec 8)) (s : State) :
    matchLength lh f s = .ok () { s with tmp := { s.tmp with matchLen := lengthOf lh f } } := by
  unfold matchLength lengthOf
  by_cases h : lh = 7
  · subst h
    have e : 7 + (f.getD 0).toNat + 2 = 9 + (f.getD 0).toNat := by omega
    simp only [doLenFoot, State.withTmp, e]
    rfl
  · have h7 : lh.toNat ≠ 7 := fun e => h (BitVec.eq_of_toNat_eq e)
    rw [if_neg h, if_neg h7]
    rfl

theorem rawMatch_run (slot : Nat) (lh : BitVec 3) (f : Option (BitVec 8)) (x : Nat) (s : State) :
    rawMatch slot lh f x s = finishMatch (cacheAfter s (lengthOf lh f) (.coded (positionBase slot - 2 + x))) := by
  unfold rawMatch
  rw [Proc.bind_of_ok (matchLength_run lh f s)]
  rfl

theorem alignedTreeMatch_run (slot : Nat) (lh : BitVec 3) (f : Option (BitVec 8)) (x : Nat) (a : BitVec 3) (s : State) :
    alignedTreeMatch slot lh f x a s
      = finishMatch (cacheAfter s (lengthOf lh f) (.coded (positionBase slot - 2 + x + a.toNat))) := by
  unfold alignedTreeMatch
  rw [Proc.bind_of_ok (matchLength_run lh f s)]
  rfl

theorem doMatchS0_run (lh : BitVec 3) (f : Option (BitVec 8)) (s : State) :
    doMatchS0 lh f s = finishMatch (cacheAfter s (lengthOf lh f) (.repeated 0)) := by
  unfold doMatchS0
  rw [Proc.bind_of_ok (matchLength_run lh f s)]
  rfl

theorem doMatchS1_run (lh : BitVec 3) (f : Option (BitVec 8)) (s : State) :
    doMatchS1 lh f s = finishMatch (cacheAfter s (lengthOf lh f) (.repeated 1)) := by
  unfold doMatchS1
  rw [Proc.bind_of_ok (matchLength_run lh f s)]
  rfl

theorem doMatchS2_run (lh : BitVec 3) (f : Option (BitVec 8)) (s : State) :
    doMatchS2 lh f s = finishMatch (cacheAfter s (lengthOf lh f) (.repeated 2)) := by
  unfold doMatchS2
  rw [Proc.bind_of_ok (matchLength_run lh f s)]
  rfl

/-! ## The end of a match -/

theorem checkOffset_ok {s : State} (h : 1 ≤ s.tmp.matchOff ∧ s.tmp.matchOff ≤ 65536) : checkOffset s = .ok () s :=
  if_neg (by unfold windowSize; omega)

theorem checkLength_ok {s : State} (h : s.tmp.matchLen ≤ s.tmp.run) : checkLength s = .ok () s :=
  if_neg (Nat.not_lt.2 h)

theorem finishMatch_badOffset {s : State} (h : s.tmp.matchOff = 0 ∨ 65536 < s.tmp.matchOff) :
    finishMatch s = .error (.raise .badMatchOffset) s :=
  Proc.bind_of_error (if_pos h)

theorem finishMatch_overrun {s : State} (h : 1 ≤ s.tmp.matchOff ∧ s.tmp.matchOff ≤ 65536)
    (hlen : s.tmp.run < s.tmp.matchLen) : finishMatch s = .error (.raise .matchOverrun) s :=
  (Proc.bind_of_ok (checkOffset_ok h)).trans (Proc.bind_of_error (if_pos hlen))

theorem finishMatch_ok {s : State} (h : CopyReady s s.tmp.matchLen s.tmp.matchOff) :
    ∃ w, copiedWindow s s.tmp.matchLen s.tmp.matchOff w ∧ finishMatch s = .ok () (copied s s.tmp.matchLen w) := by
  obtain ⟨w, hw, hwf, hget⟩ := copyLoop_ok h.offset h.fits.2 fun j hj hjo => by
    rw [copySource_eq_sourceCell _ h.offset.2]
    exact h.sources j hj hjo
  refine ⟨w, ⟨hwf, fun x => ?_⟩, ?_⟩
  · rw [hget x, copySource_eq_sourceCell _ h.offset.2]
  · unfold finishMatch copyMatch
    rw [Proc.bind_of_ok (checkOffset_ok h.offset), Proc.bind_of_ok (checkLength_ok h.fits.1), Proc.bind_get,
      Proc.bind_of_ok hw]
    rfl

theorem finishMatch_unwritten {s : State} {k : Nat} (ho : 1 ≤ s.tmp.matchOff ∧ s.tmp.matchOff ≤ 65536)
    (hlen : s.tmp.matchLen ≤ s.tmp.run) (hend : s.windowPosn.toNat + s.tmp.matchLen ≤ 65536) (hk : k < s.tmp.matchLen)
    (hko : k < s.tmp.matchOff)
    (hsrc : ∀ j < k, s.windowByte (sourceCell (s.windowPosn.toNat + j) s.tmp.matchOff) ≠ none)
    (hnone : s.windowByte (sourceCell (s.windowPosn.toNat + k) s.tmp.matchOff) = none) :
    ∃ w, copiedWindow s k s.tmp.matchOff w ∧
      finishMatch s = .error (.raise .unwrittenWindowRead) { s with window := w } := by
  obtain ⟨w, hw, hwf, hget⟩ := copyLoop_unwritten ho hk hko hend
    (fun j hj => by rw [copySource_eq_sourceCell _ ho.2]; exact hsrc j hj)
    (by rw [copySource_eq_sourceCell _ ho.2]; exact hnone)
  refine ⟨w, ⟨hwf, fun x => ?_⟩, ?_⟩
  · rw [hget x]
    by_cases hx : s.windowPosn.toNat ≤ x ∧ x < s.windowPosn.toNat + k
    · rw [if_pos hx, if_pos hx, Nat.mod_eq_of_lt (by omega), Nat.add_sub_cancel' hx.1,
        copySource_eq_sourceCell _ ho.2]
    · rw [if_neg hx, if_neg hx]
  · unfold finishMatch copyMatch
    rw [Proc.bind_of_ok (checkOffset_ok ho), Proc.bind_of_ok (checkLength_ok hlen), Proc.bind_get]
    exact Proc.bind_of_error hw

end Sys2Proof.Machine
end

