-- ==== Sys2Proof/Laws/PerInstr.lean ====
section
/-!
SUPPORT. Laws stated once for each instruction. `FieldsInRange`: every field of a well-formed element's code fits its
width, and every symbol is one its tree codes (30_encoding.md R77 to R80); a command record has no such fields.
-/

namespace Sys2Proof.Laws

/-- A field holds a value of its width, or a symbol its tree codes. -/
def fieldInRange : Field → Prop
  | .raw w v => v < 2 ^ w
  | .sym t v => v < codedSymbols t

/-- All fields of a code are in range. -/
def codeInRange : Code → Prop
  | .command _ => True
  | .element _ fields => ∀ f ∈ fields, fieldInRange f

/-- The law for one instruction. -/
def FieldsInRange.Statement (i : Instr) : Prop :=
  i.wellFormed = true → codeInRange (encode i)

theorem rawField_inRange {w : Nat} (v : BitVec w) : fieldInRange (rawField v) := v.isLt

theorem alignedField_inRange (a : BitVec 3) : fieldInRange (alignedField a) := a.isLt

theorem all_inRange_nil : ∀ f ∈ ([] : List Field), fieldInRange f := fun _ h => absurd h List.not_mem_nil

theorem all_inRange_cons {f : Field} {fs : List Field} (h : fieldInRange f) (hs : ∀ g ∈ fs, fieldInRange g) :
    ∀ g ∈ f :: fs, fieldInRange g := List.forall_mem_cons.2 ⟨h, hs⟩

/-- The fields of a match: the main symbol, the footer, the offset fields. -/
theorem matchCode_inRange {aligned : Bool} {mode : Extra3Mode} {slot : Nat} {lh : BitVec 3} {footer : Option (BitVec 8)}
    {fs : List Field} (hs : slot < 32) (hw : footerWellFormed lh footer = true) (hf : ∀ f ∈ fs, fieldInRange f) :
    codeInRange (matchCode aligned mode slot lh footer fs) := by
  have hlh := lh.isLt
  refine all_inRange_cons (show _ < 512 by omega) ?_
  cases footer with
  | none => exact hf
  | some f =>
    refine all_inRange_cons (show f.toNat < 249 from ?_) hf
    simp only [footerWellFormed, Bool.and_eq_true, decide_eq_true_eq] at hw
    omega

theorem blockCode_inRange {type : Nat} (size : BitVec 24) (h : type < 8) : codeInRange (blockCode type size) := by
  have hsize := size.isLt
  refine all_inRange_cons h (all_inRange_cons ?_ (all_inRange_cons ?_ all_inRange_nil)) <;>
    simp only [fieldInRange] <;> omega

theorem map_rawField_inRange {w : Nat} (vs : List (BitVec w)) : ∀ f ∈ vs.map rawField, fieldInRange f := by
  intro f hf
  obtain ⟨v, -, rfl⟩ := List.mem_map.1 hf
  exact rawField_inRange v

theorem alignedExtra3_inRange {slot : Nat} {lh : BitVec 3} {footer : Option (BitVec 8)} {v : Option (BitVec 3)}
    {a : BitVec 3} (hs : slot < 32) (hw : footerWellFormed lh footer = true) :
    codeInRange (alignedExtra3Code slot lh footer v a) := by
  cases v with
  | none => exact matchCode_inRange hs hw (all_inRange_cons (alignedField_inRange a) all_inRange_nil)
  | some v =>
    exact matchCode_inRange hs hw
      (all_inRange_cons (rawField_inRange v) (all_inRange_cons (alignedField_inRange a) all_inRange_nil))

theorem FieldsInRange.seekAbs (a : U32) :
    FieldsInRange.Statement (.seekAbs a) := fun _ => trivial

theorem FieldsInRange.seekRel (d : U32) :
    FieldsInRange.Statement (.seekRel d) := fun _ => trivial

theorem FieldsInRange.readBytes (n : U32) :
    FieldsInRange.Statement (.readBytes n) := fun _ => trivial

theorem FieldsInRange.peekBytes (n : U32) :
    FieldsInRange.Statement (.peekBytes n) := fun _ => trivial

theorem FieldsInRange.getPos :
    FieldsInRange.Statement .getPos := fun _ => trivial

theorem FieldsInRange.regRead (a : U32) :
    FieldsInRange.Statement (.regRead a) := fun _ => trivial

theorem FieldsInRange.arrayRead (a : U32) (b : U32) :
    FieldsInRange.Statement (.arrayRead a b) := fun _ => trivial

theorem FieldsInRange.readU8 :
    FieldsInRange.Statement .readU8 := fun _ => trivial

theorem FieldsInRange.readI8 :
    FieldsInRange.Statement .readI8 := fun _ => trivial

theorem FieldsInRange.readU16LE :
    FieldsInRange.Statement .readU16LE := fun _ => trivial

theorem FieldsInRange.readU16BE :
    FieldsInRange.Statement .readU16BE := fun _ => trivial

theorem FieldsInRange.readI16LE :
    FieldsInRange.Statement .readI16LE := fun _ => trivial

theorem FieldsInRange.readI16BE :
    FieldsInRange.Statement .readI16BE := fun _ => trivial

theorem FieldsInRange.readU32LE :
    FieldsInRange.Statement .readU32LE := fun _ => trivial

theorem FieldsInRange.readU32BE :
    FieldsInRange.Statement .readU32BE := fun _ => trivial

theorem FieldsInRange.readI32LE :
    FieldsInRange.Statement .readI32LE := fun _ => trivial

theorem FieldsInRange.readI32BE :
    FieldsInRange.Statement .readI32BE := fun _ => trivial

theorem FieldsInRange.readF32LE :
    FieldsInRange.Statement .readF32LE := fun _ => trivial

theorem FieldsInRange.readF32BE :
    FieldsInRange.Statement .readF32BE := fun _ => trivial

theorem FieldsInRange.readF64LE :
    FieldsInRange.Statement .readF64LE := fun _ => trivial

theorem FieldsInRange.readF64BE :
    FieldsInRange.Statement .readF64BE := fun _ => trivial

theorem FieldsInRange.read7Bit :
    FieldsInRange.Statement .read7Bit := fun _ => trivial

theorem FieldsInRange.readString :
    FieldsInRange.Statement .readString := fun _ => trivial

theorem FieldsInRange.readLzxInt16 :
    FieldsInRange.Statement .readLzxInt16 := fun _ => trivial

theorem FieldsInRange.readBits (n : U32) :
    FieldsInRange.Statement (.readBits n) := fun _ => trivial

theorem FieldsInRange.peekBits (n : U32) :
    FieldsInRange.Statement (.peekBits n) := fun _ => trivial

theorem FieldsInRange.setBitPos (v : U32) :
    FieldsInRange.Statement (.setBitPos v) := fun _ => trivial

theorem FieldsInRange.align :
    FieldsInRange.Statement .align := fun _ => trivial

theorem FieldsInRange.hufBuild (n : U32) (tb : U32) (data : List Byte) :
    FieldsInRange.Statement (.hufBuild n tb data) := fun _ => trivial

theorem FieldsInRange.hufDecode :
    FieldsInRange.Statement .hufDecode := fun _ => trivial

theorem FieldsInRange.lzxReset :
    FieldsInRange.Statement .lzxReset := fun _ => trivial

theorem FieldsInRange.lzxDecompress (fs : U32) (bs : U32) :
    FieldsInRange.Statement (.lzxDecompress fs bs) := fun _ => trivial

theorem FieldsInRange.frmRun (clen : U32) (dlen : U32) :
    FieldsInRange.Statement (.frmRun clen dlen) := fun _ => trivial

theorem FieldsInRange.load (data : List Byte) :
    FieldsInRange.Statement (.load data) := fun _ => trivial

theorem FieldsInRange.reset :
    FieldsInRange.Statement .reset := fun _ => trivial

theorem FieldsInRange.illegal (op : BitVec 8) :
    FieldsInRange.Statement (.illegal op) := fun _ => trivial

theorem FieldsInRange.frmExplicit (fs : BitVec 16) (bs : BitVec 16) :
    FieldsInRange.Statement (.frmExplicit fs bs) :=
  fun _ => all_inRange_cons (show 255 < 2 ^ 8 by decide)
    (all_inRange_cons (rawField_inRange fs) (all_inRange_cons (rawField_inRange bs) all_inRange_nil))

theorem FieldsInRange.frmImplicit (bs : BitVec 16) :
    FieldsInRange.Statement (.frmImplicit bs) := fun _ => all_inRange_cons (rawField_inRange bs) all_inRange_nil

theorem FieldsInRange.transform (t : BitVec 1) :
    FieldsInRange.Statement (.transform t) := fun _ => all_inRange_cons (rawField_inRange t) all_inRange_nil

theorem FieldsInRange.blockInvalid0 (size : BitVec 24) :
    FieldsInRange.Statement (.blockInvalid0 size) := fun _ => blockCode_inRange size (by decide)

theorem FieldsInRange.blockVerbatim (size : BitVec 24) :
    FieldsInRange.Statement (.blockVerbatim size) := fun _ => blockCode_inRange size (by decide)

theorem FieldsInRange.blockAligned (size : BitVec 24) :
    FieldsInRange.Statement (.blockAligned size) := fun _ => blockCode_inRange size (by decide)

theorem FieldsInRange.blockUncompressed (size : BitVec 24) :
    FieldsInRange.Statement (.blockUncompressed size) := fun _ => blockCode_inRange size (by decide)

theorem FieldsInRange.blockInvalid4to7 (t : BitVec 2) (size : BitVec 24) :
    FieldsInRange.Statement (.blockInvalid4to7 t size) := fun _ => blockCode_inRange size (by have := t.isLt; omega)

theorem FieldsInRange.alignedLengths (a : Vector (BitVec 3) 8) :
    FieldsInRange.Statement (.alignedLengths a) := fun _ => map_rawField_inRange a.toList

theorem FieldsInRange.pretree (p : Vector (BitVec 4) 20) :
    FieldsInRange.Statement (.pretree p) := fun _ => map_rawField_inRange p.toList

theorem FieldsInRange.ptDelta (s : BitVec 5) :
    FieldsInRange.Statement (.ptDelta s) :=
  fun h => all_inRange_cons (show s.toNat < 20 from Nat.lt_of_le_of_lt (of_decide_eq_true h) (by decide)) all_inRange_nil

theorem FieldsInRange.ptZ4 (z : BitVec 4) :
    FieldsInRange.Statement (.ptZ4 z) :=
  fun _ => all_inRange_cons (show _ < 20 by decide) (all_inRange_cons (rawField_inRange z) all_inRange_nil)

theorem FieldsInRange.ptZ20 (z : BitVec 5) :
    FieldsInRange.Statement (.ptZ20 z) :=
  fun _ => all_inRange_cons (show _ < 20 by decide) (all_inRange_cons (rawField_inRange z) all_inRange_nil)

theorem FieldsInRange.ptSame (z : BitVec 1) (s2 : BitVec 5) :
    FieldsInRange.Statement (.ptSame z s2) :=
  fun h => all_inRange_cons (show 19 < 20 by decide) (all_inRange_cons (rawField_inRange z)
    (all_inRange_cons (show s2.toNat < 20 from Nat.lt_succ_of_le (of_decide_eq_true h)) all_inRange_nil))

theorem FieldsInRange.lit (c : Byte) :
    FieldsInRange.Statement (.lit c) :=
  fun _ => all_inRange_cons (show c.toNat < 512 from Nat.lt_trans c.isLt (by decide)) all_inRange_nil

theorem FieldsInRange.matchS0 (lh : BitVec 3) (footer : Option (BitVec 8)) :
    FieldsInRange.Statement (.matchS0 lh footer) :=
  fun hw => matchCode_inRange (by decide) hw all_inRange_nil

theorem FieldsInRange.matchS1 (lh : BitVec 3) (footer : Option (BitVec 8)) :
    FieldsInRange.Statement (.matchS1 lh footer) :=
  fun hw => matchCode_inRange (by decide) hw all_inRange_nil

theorem FieldsInRange.matchS2 (lh : BitVec 3) (footer : Option (BitVec 8)) :
    FieldsInRange.Statement (.matchS2 lh footer) :=
  fun hw => matchCode_inRange (by decide) hw all_inRange_nil

theorem FieldsInRange.matchS3 (lh : BitVec 3) (footer : Option (BitVec 8)) :
    FieldsInRange.Statement (.matchS3 lh footer) :=
  fun hw => matchCode_inRange (by decide) hw all_inRange_nil

theorem FieldsInRange.matchVS4 (lh : BitVec 3) (footer : Option (BitVec 8)) (v : BitVec 1) :
    FieldsInRange.Statement (.matchVS4 lh footer v) :=
  fun hw => matchCode_inRange (by decide) hw (all_inRange_cons (rawField_inRange v) all_inRange_nil)

theorem FieldsInRange.matchVS5 (lh : BitVec 3) (footer : Option (BitVec 8)) (v : BitVec 1) :
    FieldsInRange.Statement (.matchVS5 lh footer v) :=
  fun hw => matchCode_inRange (by decide) hw (all_inRange_cons (rawField_inRange v) all_inRange_nil)

theorem FieldsInRange.matchVS6 (lh : BitVec 3) (footer : Option (BitVec 8)) (v : BitVec 2) :
    FieldsInRange.Statement (.matchVS6 lh footer v) :=
  fun hw => matchCode_inRange (by decide) hw (all_inRange_cons (rawField_inRange v) all_inRange_nil)

theorem FieldsInRange.matchVS7 (lh : BitVec 3) (footer : Option (BitVec 8)) (v : BitVec 2) :
    FieldsInRange.Statement (.matchVS7 lh footer v) :=
  fun hw => matchCode_inRange (by decide) hw (all_inRange_cons (rawField_inRange v) all_inRange_nil)

theorem FieldsInRange.matchVS8 (lh : BitVec 3) (footer : Option (BitVec 8)) (v : BitVec 3) :
    FieldsInRange.Statement (.matchVS8 lh footer v) :=
  fun hw => matchCode_inRange (by decide) hw (all_inRange_cons (rawField_inRange v) all_inRange_nil)

theorem FieldsInRange.matchVS9 (lh : BitVec 3) (footer : Option (BitVec 8)) (v : BitVec 3) :
    FieldsInRange.Statement (.matchVS9 lh footer v) :=
  fun hw => matchCode_inRange (by decide) hw (all_inRange_cons (rawField_inRange v) all_inRange_nil)

theorem FieldsInRange.matchVS10 (lh : BitVec 3) (footer : Option (BitVec 8)) (v : BitVec 4) :
    FieldsInRange.Statement (.matchVS10 lh footer v) :=
  fun hw => matchCode_inRange (by decide) hw (all_inRange_cons (rawField_inRange v) all_inRange_nil)

theorem FieldsInRange.matchVS11 (lh : BitVec 3) (footer : Option (BitVec 8)) (v : BitVec 4) :
    FieldsInRange.Statement (.matchVS11 lh footer v) :=
  fun hw => matchCode_inRange (by decide) hw (all_inRange_cons (rawField_inRange v) all_inRange_nil)

theorem FieldsInRange.matchVS12 (lh : BitVec 3) (footer : Option (BitVec 8)) (v : BitVec 5) :
    FieldsInRange.Statement (.matchVS12 lh footer v) :=
  fun hw => matchCode_inRange (by decide) hw (all_inRange_cons (rawField_inRange v) all_inRange_nil)

theorem FieldsInRange.matchVS13 (lh : BitVec 3) (footer : Option (BitVec 8)) (v : BitVec 5) :
    FieldsInRange.Statement (.matchVS13 lh footer v) :=
  fun hw => matchCode_inRange (by decide) hw (all_inRange_cons (rawField_inRange v) all_inRange_nil)

theorem FieldsInRange.matchVS14 (lh : BitVec 3) (footer : Option (BitVec 8)) (v : BitVec 6) :
    FieldsInRange.Statement (.matchVS14 lh footer v) :=
  fun hw => matchCode_inRange (by decide) hw (all_inRange_cons (rawField_inRange v) all_inRange_nil)

theorem FieldsInRange.matchVS15 (lh : BitVec 3) (footer : Option (BitVec 8)) (v : BitVec 6) :
    FieldsInRange.Statement (.matchVS15 lh footer v) :=
  fun hw => matchCode_inRange (by decide) hw (all_inRange_cons (rawField_inRange v) all_inRange_nil)

theorem FieldsInRange.matchVS16 (lh : BitVec 3) (footer : Option (BitVec 8)) (v : BitVec 7) :
    FieldsInRange.Statement (.matchVS16 lh footer v) :=
  fun hw => matchCode_inRange (by decide) hw (all_inRange_cons (rawField_inRange v) all_inRange_nil)

theorem FieldsInRange.matchVS17 (lh : BitVec 3) (footer : Option (BitVec 8)) (v : BitVec 7) :
    FieldsInRange.Statement (.matchVS17 lh footer v) :=
  fun hw => matchCode_inRange (by decide) hw (all_inRange_cons (rawField_inRange v) all_inRange_nil)

theorem FieldsInRange.matchVS18 (lh : BitVec 3) (footer : Option (BitVec 8)) (v : BitVec 8) :
    FieldsInRange.Statement (.matchVS18 lh footer v) :=
  fun hw => matchCode_inRange (by decide) hw (all_inRange_cons (rawField_inRange v) all_inRange_nil)

theorem FieldsInRange.matchVS19 (lh : BitVec 3) (footer : Option (BitVec 8)) (v : BitVec 8) :
    FieldsInRange.Statement (.matchVS19 lh footer v) :=
  fun hw => matchCode_inRange (by decide) hw (all_inRange_cons (rawField_inRange v) all_inRange_nil)

theorem FieldsInRange.matchVS20 (lh : BitVec 3) (footer : Option (BitVec 8)) (v : BitVec 9) :
    FieldsInRange.Statement (.matchVS20 lh footer v) :=
  fun hw => matchCode_inRange (by decide) hw (all_inRange_cons (rawField_inRange v) all_inRange_nil)

theorem FieldsInRange.matchVS21 (lh : BitVec 3) (footer : Option (BitVec 8)) (v : BitVec 9) :
    FieldsInRange.Statement (.matchVS21 lh footer v) :=
  fun hw => matchCode_inRange (by decide) hw (all_inRange_cons (rawField_inRange v) all_inRange_nil)

theorem FieldsInRange.matchVS22 (lh : BitVec 3) (footer : Option (BitVec 8)) (v : BitVec 10) :
    FieldsInRange.Statement (.matchVS22 lh footer v) :=
  fun hw => matchCode_inRange (by decide) hw (all_inRange_cons (rawField_inRange v) all_inRange_nil)

theorem FieldsInRange.matchVS23 (lh : BitVec 3) (footer : Option (BitVec 8)) (v : BitVec 10) :
    FieldsInRange.Statement (.matchVS23 lh footer v) :=
  fun hw => matchCode_inRange (by decide) hw (all_inRange_cons (rawField_inRange v) all_inRange_nil)

theorem FieldsInRange.matchVS24 (lh : BitVec 3) (footer : Option (BitVec 8)) (v : BitVec 11) :
    FieldsInRange.Statement (.matchVS24 lh footer v) :=
  fun hw => matchCode_inRange (by decide) hw (all_inRange_cons (rawField_inRange v) all_inRange_nil)

theorem FieldsInRange.matchVS25 (lh : BitVec 3) (footer : Option (BitVec 8)) (v : BitVec 11) :
    FieldsInRange.Statement (.matchVS25 lh footer v) :=
  fun hw => matchCode_inRange (by decide) hw (all_inRange_cons (rawField_inRange v) all_inRange_nil)

theorem FieldsInRange.matchVS26 (lh : BitVec 3) (footer : Option (BitVec 8)) (v : BitVec 12) :
    FieldsInRange.Statement (.matchVS26 lh footer v) :=
  fun hw => matchCode_inRange (by decide) hw (all_inRange_cons (rawField_inRange v) all_inRange_nil)

theorem FieldsInRange.matchVS27 (lh : BitVec 3) (footer : Option (BitVec 8)) (v : BitVec 12) :
    FieldsInRange.Statement (.matchVS27 lh footer v) :=
  fun hw => matchCode_inRange (by decide) hw (all_inRange_cons (rawField_inRange v) all_inRange_nil)

theorem FieldsInRange.matchVS28 (lh : BitVec 3) (footer : Option (BitVec 8)) (v : BitVec 13) :
    FieldsInRange.Statement (.matchVS28 lh footer v) :=
  fun hw => matchCode_inRange (by decide) hw (all_inRange_cons (rawField_inRange v) all_inRange_nil)

theorem FieldsInRange.matchVS29 (lh : BitVec 3) (footer : Option (BitVec 8)) (v : BitVec 13) :
    FieldsInRange.Statement (.matchVS29 lh footer v) :=
  fun hw => matchCode_inRange (by decide) hw (all_inRange_cons (rawField_inRange v) all_inRange_nil)

theorem FieldsInRange.matchVS30 (lh : BitVec 3) (footer : Option (BitVec 8)) (v : BitVec 14) :
    FieldsInRange.Statement (.matchVS30 lh footer v) :=
  fun hw => matchCode_inRange (by decide) hw (all_inRange_cons (rawField_inRange v) all_inRange_nil)

theorem FieldsInRange.matchVS31 (lh : BitVec 3) (footer : Option (BitVec 8)) (v : BitVec 14) :
    FieldsInRange.Statement (.matchVS31 lh footer v) :=
  fun hw => matchCode_inRange (by decide) hw (all_inRange_cons (rawField_inRange v) all_inRange_nil)

theorem FieldsInRange.matchAS4 (lh : BitVec 3) (footer : Option (BitVec 8)) (v : BitVec 1) :
    FieldsInRange.Statement (.matchAS4 lh footer v) :=
  fun hw => matchCode_inRange (by decide) hw (all_inRange_cons (rawField_inRange v) all_inRange_nil)

theorem FieldsInRange.matchAS5 (lh : BitVec 3) (footer : Option (BitVec 8)) (v : BitVec 1) :
    FieldsInRange.Statement (.matchAS5 lh footer v) :=
  fun hw => matchCode_inRange (by decide) hw (all_inRange_cons (rawField_inRange v) all_inRange_nil)

theorem FieldsInRange.matchAS6 (lh : BitVec 3) (footer : Option (BitVec 8)) (v : BitVec 2) :
    FieldsInRange.Statement (.matchAS6 lh footer v) :=
  fun hw => matchCode_inRange (by decide) hw (all_inRange_cons (rawField_inRange v) all_inRange_nil)

theorem FieldsInRange.matchAS7 (lh : BitVec 3) (footer : Option (BitVec 8)) (v : BitVec 2) :
    FieldsInRange.Statement (.matchAS7 lh footer v) :=
  fun hw => matchCode_inRange (by decide) hw (all_inRange_cons (rawField_inRange v) all_inRange_nil)

theorem FieldsInRange.matchAS8 (lh : BitVec 3) (footer : Option (BitVec 8)) (v : Option (BitVec 3)) (a : BitVec 3) :
    FieldsInRange.Statement (.matchAS8 lh footer v a) := alignedExtra3_inRange (by decide)

theorem FieldsInRange.matchAS9 (lh : BitVec 3) (footer : Option (BitVec 8)) (v : Option (BitVec 3)) (a : BitVec 3) :
    FieldsInRange.Statement (.matchAS9 lh footer v a) := alignedExtra3_inRange (by decide)

theorem FieldsInRange.matchAS10 (lh : BitVec 3) (footer : Option (BitVec 8)) (h : BitVec 1) (a : BitVec 3) :
    FieldsInRange.Statement (.matchAS10 lh footer h a) :=
  fun hw => matchCode_inRange (by decide) hw (all_inRange_cons (rawField_inRange h) (all_inRange_cons (alignedField_inRange a) all_inRange_nil))

theorem FieldsInRange.matchAS11 (lh : BitVec 3) (footer : Option (BitVec 8)) (h : BitVec 1) (a : BitVec 3) :
    FieldsInRange.Statement (.matchAS11 lh footer h a) :=
  fun hw => matchCode_inRange (by decide) hw (all_inRange_cons (rawField_inRange h) (all_inRange_cons (alignedField_inRange a) all_inRange_nil))

theorem FieldsInRange.matchAS12 (lh : BitVec 3) (footer : Option (BitVec 8)) (h : BitVec 2) (a : BitVec 3) :
    FieldsInRange.Statement (.matchAS12 lh footer h a) :=
  fun hw => matchCode_inRange (by decide) hw (all_inRange_cons (rawField_inRange h) (all_inRange_cons (alignedField_inRange a) all_inRange_nil))

theorem FieldsInRange.matchAS13 (lh : BitVec 3) (footer : Option (BitVec 8)) (h : BitVec 2) (a : BitVec 3) :
    FieldsInRange.Statement (.matchAS13 lh footer h a) :=
  fun hw => matchCode_inRange (by decide) hw (all_inRange_cons (rawField_inRange h) (all_inRange_cons (alignedField_inRange a) all_inRange_nil))

theorem FieldsInRange.matchAS14 (lh : BitVec 3) (footer : Option (BitVec 8)) (h : BitVec 3) (a : BitVec 3) :
    FieldsInRange.Statement (.matchAS14 lh footer h a) :=
  fun hw => matchCode_inRange (by decide) hw (all_inRange_cons (rawField_inRange h) (all_inRange_cons (alignedField_inRange a) all_inRange_nil))

theorem FieldsInRange.matchAS15 (lh : BitVec 3) (footer : Option (BitVec 8)) (h : BitVec 3) (a : BitVec 3) :
    FieldsInRange.Statement (.matchAS15 lh footer h a) :=
  fun hw => matchCode_inRange (by decide) hw (all_inRange_cons (rawField_inRange h) (all_inRange_cons (alignedField_inRange a) all_inRange_nil))

theorem FieldsInRange.matchAS16 (lh : BitVec 3) (footer : Option (BitVec 8)) (h : BitVec 4) (a : BitVec 3) :
    FieldsInRange.Statement (.matchAS16 lh footer h a) :=
  fun hw => matchCode_inRange (by decide) hw (all_inRange_cons (rawField_inRange h) (all_inRange_cons (alignedField_inRange a) all_inRange_nil))

theorem FieldsInRange.matchAS17 (lh : BitVec 3) (footer : Option (BitVec 8)) (h : BitVec 4) (a : BitVec 3) :
    FieldsInRange.Statement (.matchAS17 lh footer h a) :=
  fun hw => matchCode_inRange (by decide) hw (all_inRange_cons (rawField_inRange h) (all_inRange_cons (alignedField_inRange a) all_inRange_nil))

theorem FieldsInRange.matchAS18 (lh : BitVec 3) (footer : Option (BitVec 8)) (h : BitVec 5) (a : BitVec 3) :
    FieldsInRange.Statement (.matchAS18 lh footer h a) :=
  fun hw => matchCode_inRange (by decide) hw (all_inRange_cons (rawField_inRange h) (all_inRange_cons (alignedField_inRange a) all_inRange_nil))

theorem FieldsInRange.matchAS19 (lh : BitVec 3) (footer : Option (BitVec 8)) (h : BitVec 5) (a : BitVec 3) :
    FieldsInRange.Statement (.matchAS19 lh footer h a) :=
  fun hw => matchCode_inRange (by decide) hw (all_inRange_cons (rawField_inRange h) (all_inRange_cons (alignedField_inRange a) all_inRange_nil))

theorem FieldsInRange.matchAS20 (lh : BitVec 3) (footer : Option (BitVec 8)) (h : BitVec 6) (a : BitVec 3) :
    FieldsInRange.Statement (.matchAS20 lh footer h a) :=
  fun hw => matchCode_inRange (by decide) hw (all_inRange_cons (rawField_inRange h) (all_inRange_cons (alignedField_inRange a) all_inRange_nil))

theorem FieldsInRange.matchAS21 (lh : BitVec 3) (footer : Option (BitVec 8)) (h : BitVec 6) (a : BitVec 3) :
    FieldsInRange.Statement (.matchAS21 lh footer h a) :=
  fun hw => matchCode_inRange (by decide) hw (all_inRange_cons (rawField_inRange h) (all_inRange_cons (alignedField_inRange a) all_inRange_nil))

theorem FieldsInRange.matchAS22 (lh : BitVec 3) (footer : Option (BitVec 8)) (h : BitVec 7) (a : BitVec 3) :
    FieldsInRange.Statement (.matchAS22 lh footer h a) :=
  fun hw => matchCode_inRange (by decide) hw (all_inRange_cons (rawField_inRange h) (all_inRange_cons (alignedField_inRange a) all_inRange_nil))

theorem FieldsInRange.matchAS23 (lh : BitVec 3) (footer : Option (BitVec 8)) (h : BitVec 7) (a : BitVec 3) :
    FieldsInRange.Statement (.matchAS23 lh footer h a) :=
  fun hw => matchCode_inRange (by decide) hw (all_inRange_cons (rawField_inRange h) (all_inRange_cons (alignedField_inRange a) all_inRange_nil))

theorem FieldsInRange.matchAS24 (lh : BitVec 3) (footer : Option (BitVec 8)) (h : BitVec 8) (a : BitVec 3) :
    FieldsInRange.Statement (.matchAS24 lh footer h a) :=
  fun hw => matchCode_inRange (by decide) hw (all_inRange_cons (rawField_inRange h) (all_inRange_cons (alignedField_inRange a) all_inRange_nil))

theorem FieldsInRange.matchAS25 (lh : BitVec 3) (footer : Option (BitVec 8)) (h : BitVec 8) (a : BitVec 3) :
    FieldsInRange.Statement (.matchAS25 lh footer h a) :=
  fun hw => matchCode_inRange (by decide) hw (all_inRange_cons (rawField_inRange h) (all_inRange_cons (alignedField_inRange a) all_inRange_nil))

theorem FieldsInRange.matchAS26 (lh : BitVec 3) (footer : Option (BitVec 8)) (h : BitVec 9) (a : BitVec 3) :
    FieldsInRange.Statement (.matchAS26 lh footer h a) :=
  fun hw => matchCode_inRange (by decide) hw (all_inRange_cons (rawField_inRange h) (all_inRange_cons (alignedField_inRange a) all_inRange_nil))

theorem FieldsInRange.matchAS27 (lh : BitVec 3) (footer : Option (BitVec 8)) (h : BitVec 9) (a : BitVec 3) :
    FieldsInRange.Statement (.matchAS27 lh footer h a) :=
  fun hw => matchCode_inRange (by decide) hw (all_inRange_cons (rawField_inRange h) (all_inRange_cons (alignedField_inRange a) all_inRange_nil))

theorem FieldsInRange.matchAS28 (lh : BitVec 3) (footer : Option (BitVec 8)) (h : BitVec 10) (a : BitVec 3) :
    FieldsInRange.Statement (.matchAS28 lh footer h a) :=
  fun hw => matchCode_inRange (by decide) hw (all_inRange_cons (rawField_inRange h) (all_inRange_cons (alignedField_inRange a) all_inRange_nil))

theorem FieldsInRange.matchAS29 (lh : BitVec 3) (footer : Option (BitVec 8)) (h : BitVec 10) (a : BitVec 3) :
    FieldsInRange.Statement (.matchAS29 lh footer h a) :=
  fun hw => matchCode_inRange (by decide) hw (all_inRange_cons (rawField_inRange h) (all_inRange_cons (alignedField_inRange a) all_inRange_nil))

theorem FieldsInRange.matchAS30 (lh : BitVec 3) (footer : Option (BitVec 8)) (h : BitVec 11) (a : BitVec 3) :
    FieldsInRange.Statement (.matchAS30 lh footer h a) :=
  fun hw => matchCode_inRange (by decide) hw (all_inRange_cons (rawField_inRange h) (all_inRange_cons (alignedField_inRange a) all_inRange_nil))

theorem FieldsInRange.matchAS31 (lh : BitVec 3) (footer : Option (BitVec 8)) (h : BitVec 11) (a : BitVec 3) :
    FieldsInRange.Statement (.matchAS31 lh footer h a) :=
  fun hw => matchCode_inRange (by decide) hw (all_inRange_cons (rawField_inRange h) (all_inRange_cons (alignedField_inRange a) all_inRange_nil))

theorem FieldsInRange.lenFoot (f : BitVec 8) :
    FieldsInRange.Statement (.lenFoot f) :=
  fun h => all_inRange_cons (show f.toNat < 249 from Nat.lt_succ_of_le (of_decide_eq_true h)) all_inRange_nil

theorem FieldsInRange.alignSym (a : BitVec 3) :
    FieldsInRange.Statement (.alignSym a) := fun _ => all_inRange_cons (alignedField_inRange a) all_inRange_nil

theorem FieldsInRange.streamAlign :
    FieldsInRange.Statement .streamAlign := fun _ => all_inRange_nil

theorem FieldsInRange.uncompReps (r0 : U32) (r1 : U32) (r2 : U32) :
    FieldsInRange.Statement (.uncompReps r0 r1 r2) :=
  fun _ => all_inRange_cons (rawField_inRange r0)
    (all_inRange_cons (rawField_inRange r1) (all_inRange_cons (rawField_inRange r2) all_inRange_nil))

theorem FieldsInRange.uncompBytes :
    FieldsInRange.Statement .uncompBytes := fun _ => all_inRange_nil

end Sys2Proof.Laws
end

