-- ==== Sys2Proof/Laws/Tables.lean ====
section
/-!
SUPPORT. The tables the build makes: which codes a table holds by the Kraft sums, and the host's table as HUF_BUILD
leaves it and HUF_DECODE reads it (42_huffman.md R126, R127, R135, R136).
-/

namespace Sys2Proof.Machine

open Sys2Proof.Safety

/-- The Kraft sums tell whether the build succeeds and, if not, which fault it raises. -/
theorem buildOutcome_eq (accept : Bool) {tb : Nat} (htb : 1 ≤ tb ∧ tb ≤ 16) (lens : List Nat) :
    buildOutcome accept tb lens = match buildTable accept tb lens with
      | .ok _ => none
      | .error c => some c := by
  rw [buildTable_eq accept tb htb, buildOutcome]
  have hall : (accept && lens.all (· == 0)) = true ↔ (accept = true ∧ ∀ l ∈ lens, l = 0) := by simp
  by_cases h1 : 65536 < kraft tb lens
  · rw [if_pos h1, if_pos h1]
  by_cases h2 : kraft tb lens = 65536
  · rw [if_neg h1, if_neg h1, if_pos h2, if_pos h2]
  by_cases h3 : 65536 < kraft 16 lens
  · rw [if_neg h1, if_neg h1, if_neg h2, if_neg h2, if_pos h3, if_pos h3]
  by_cases h4 : kraft 16 lens = 65536
  · rw [if_neg h1, if_neg h1, if_neg h2, if_neg h2, if_neg h3, if_neg h3, if_pos h4, if_pos h4]
  rw [if_neg h1, if_neg h1, if_neg h2, if_neg h2, if_neg h3, if_neg h3, if_neg h4, if_neg h4]
  by_cases h5 : accept = true ∧ ∀ l ∈ lens, l = 0
  · rw [if_pos h5, if_pos (hall.2 h5)]
  · rw [if_neg h5, if_neg fun h => h5 (hall.1 h)]

/-- The codes of a table that was built: those of the lengths 1..tb if these are complete, else those of all lengths,
which are complete or belong to the empty table that EMPTY_TREE_ACCEPT admits. -/
theorem leaves_of_buildTable {accept : Bool} {tb : Nat} {lens : List Nat} {t : List Leaf} (htb : 1 ≤ tb ∧ tb ≤ 16)
    (h : buildTable accept tb lens = .ok t) :
    (t = unitLeaves lens tb ∧ kraft tb lens = 65536) ∨
    (t = unitLeaves lens 16 ∧ kraft tb lens ≠ 65536 ∧ kraft 16 lens = 65536) ∨
    (t = unitLeaves lens 16 ∧ accept = true ∧ ∀ l ∈ lens, l = 0) := by
  rw [buildTable_eq accept tb htb] at h
  split at h
  · cases h
  split at h
  · cases h
    exact .inl ⟨rfl, ‹_›⟩
  split at h
  · cases h
  split at h
  · cases h
    exact .inr (.inl ⟨rfl, ‹_›, ‹_›⟩)
  split at h
  · rename_i hx
    cases h
    exact .inr (.inr ⟨rfl, by simpa using hx⟩)
  · cases h

/-- In a code that is complete over the lengths 1..tb no symbol is longer, unless the lengths are over-subscribed. -/
theorem getD_le_of_kraft {lens : List Nat} {tb a : Nat} (hk : kraft tb lens = 65536) (h16 : kraft 16 lens ≤ 65536)
    (hc : codeLengths lens) : lens.getD a 0 ≤ tb := by
  by_contra hgt
  obtain ⟨m, hm⟩ : ∃ m, lens.getD a 0 = m + 1 := ⟨lens.getD a 0 - 1, by omega⟩
  have ha := lt_length_of_getD hm
  have hle : lens.getD a 0 ≤ 16 := by
    rw [List.getD_eq_getElem _ _ ha]
    exact hc _ (List.getElem_mem ha)
  have h1 := codeEnd_le hm
  have h2 := codeStart_eq hm
  have h3 := kraft_mono (show tb ≤ m by omega) lens
  have h4 := kraft_mono (show m + 1 ≤ 16 by omega) lens
  have := Nat.two_pow_pos (15 - m)
  omega

/-- The operand check of HUF_BUILD. -/
theorem hufOperandsOk_iff (n tb : Nat) (data : List Byte) :
    hufOperandsOk n tb data = true ↔
      (1 ≤ n ∧ n ≤ 1024) ∧ (1 ≤ tb ∧ tb ≤ 16) ∧ data.length = n ∧ ∀ l ∈ data, l.toNat ≤ 16 := by
  simp only [hufOperandsOk, Bool.and_eq_true, decide_eq_true_eq, beq_iff_eq, hostMaxSymbols, maxCodeLen,
    List.all_eq_true]
  tauto

/-- The lengths HUF_BUILD keeps are those of its DATA. -/
theorem hostLengths_withHost {n tb : U32} {data : List Byte} (s : State)
    (h : hufOperandsOk n.toNat tb.toNat data = true) : (s.withHost n tb data).hostLengths = data.map (·.toNat) := by
  obtain ⟨⟨-, h2⟩, -, h5, h6⟩ := (hufOperandsOk_iff _ _ _).1 h
  apply List.ext_getElem
  · simp [State.hostLengths, State.withHost]
    omega
  · intro i _ hi
    have hi : i < data.length := by simpa using hi
    simp only [State.hostLengths, State.withHost, List.getElem_map, List.getElem_take, Vector.getElem_toList]
    rw [writeLengths_getElem _ _ _ _ (by omega), if_pos (by simp; omega)]
    simp only [Nat.sub_zero, List.getD_eq_getElem?_getD, List.getElem?_map, List.getElem?_eq_getElem hi, Option.map_some,
      Option.getD_some]
    have := h6 _ (List.getElem_mem hi)
    rw [BitVec.toNat_ofNat]
    exact Nat.mod_eq_of_lt (by omega)

/-- HUF_DECODE with a table that is VALID. -/
theorem doHufDecode_of_valid {s : State} (h : s.hostTable.valid = true) :
    doHufDecode s = (decodeSym s.hostTable.leaves (fun sym => s.hostLengths.getD sym 0) s.hostTb.toNat >>= fun sym =>
      pure (.nat sym)) s := by
  unfold doHufDecode
  rw [Proc.bind_get, if_pos h, Table.codes, if_pos h]

end Sys2Proof.Machine
end

