-- ==== Sys2Proof/Tests/Slice0.lean ====
section
/-!
SUPPORT. The model's own tests: what WellFormed refuses, the decoding of words written out from the spec's encoding,
the worked values of the spec, and for every statement with hypotheses a state that meets them, at the boundary values
of each of its clauses (witness theorems, named after the statement).
-/

namespace Sys2Proof.Tests

open Sys2Proof.Machine Sys2Proof.Safety

set_option Elab.async false

/-! ## Well-formedness: for each check a term it refuses, and the nearest one it accepts -/

theorem test_wellFormed_illegal_refuses_a_legal_opcode :
    Instr.wellFormed (.illegal 0x10) = false ∧ Instr.wellFormed (.illegal 0x1E) = true := by decide

theorem test_wellFormed_implicit_header_refuses_first_byte_ff :
    Instr.wellFormed (.frmImplicit 0xFF00) = false ∧ Instr.wellFormed (.frmImplicit 0xFEFF) = true := by decide

theorem test_wellFormed_delta_refuses_symbol_17 :
    Instr.wellFormed (.ptDelta 17) = false ∧ Instr.wellFormed (.ptDelta 16) = true := by decide

theorem test_wellFormed_same_refuses_symbol_20 :
    Instr.wellFormed (.ptSame 0 20) = false ∧ Instr.wellFormed (.ptSame 0 19) = true := by decide

theorem test_wellFormed_footer_refuses_symbol_249 :
    Instr.wellFormed (.lenFoot 249) = false ∧ Instr.wellFormed (.lenFoot 248) = true := by decide

/-- A match has a footer exactly when its length header is 7, and it is at most 248. -/
theorem test_wellFormed_match_refuses_a_wrong_footer :
    Instr.wellFormed (.matchS0 7 none) = false ∧ Instr.wellFormed (.matchS3 6 (some 0)) = false ∧
    Instr.wellFormed (.matchVS31 7 (some 249) 0) = false ∧ Instr.wellFormed (.matchAS8 0 (some 1) none 0) = false ∧
    Instr.wellFormed (.matchAS31 7 (some 248) 0 0) = true ∧ Instr.wellFormed (.matchVS4 6 none 0) = true := by decide

/-! ## Decoding: words written out from 30_encoding.md

A command word is its opcode byte with operands A = 11, B = 22 and DATA = 1, 2; each format takes its own. -/

/-- A command record with all its operands set. -/
def command (op : BitVec 8) : Except DecodeError Instr :=
  decode (.command { opcode := op, a := 11, b := 22, data := [1, 2] })

/-- Opcodes 0x01 to 0x07 (R68). -/
theorem test_decode_position_and_raw_commands :
    command 0x01 = .ok (.seekAbs 11) ∧
    command 0x02 = .ok (.seekRel 11) ∧
    command 0x03 = .ok (.readBytes 11) ∧
    command 0x04 = .ok (.peekBytes 11) ∧
    command 0x05 = .ok .getPos ∧
    command 0x06 = .ok (.regRead 11) ∧
    command 0x07 = .ok (.arrayRead 11 22) := by decide

/-- Opcodes 0x10 to 0x1D (R68). -/
theorem test_decode_numeric_reads :
    command 0x10 = .ok .readU8 ∧
    command 0x11 = .ok .readI8 ∧
    command 0x12 = .ok .readU16LE ∧
    command 0x13 = .ok .readU16BE ∧
    command 0x14 = .ok .readI16LE ∧
    command 0x15 = .ok .readI16BE ∧
    command 0x16 = .ok .readU32LE ∧
    command 0x17 = .ok .readU32BE ∧
    command 0x18 = .ok .readI32LE ∧
    command 0x19 = .ok .readI32BE ∧
    command 0x1A = .ok .readF32LE ∧
    command 0x1B = .ok .readF32BE ∧
    command 0x1C = .ok .readF64LE ∧
    command 0x1D = .ok .readF64BE := by decide

/-- Opcodes 0x20 to 0x22 and 0x30 to 0x33 (R68). -/
theorem test_decode_variable_reads_and_bits :
    command 0x20 = .ok .read7Bit ∧
    command 0x21 = .ok .readString ∧
    command 0x22 = .ok .readLzxInt16 ∧
    command 0x30 = .ok (.readBits 11) ∧
    command 0x31 = .ok (.peekBits 11) ∧
    command 0x32 = .ok (.setBitPos 11) ∧
    command 0x33 = .ok .align := by decide

/-- Opcodes 0x40 to 0x7F (R68). -/
theorem test_decode_huffman_engine_control :
    command 0x40 = .ok (.hufBuild 11 22 [1, 2]) ∧
    command 0x41 = .ok .hufDecode ∧
    command 0x50 = .ok .lzxReset ∧
    command 0x51 = .ok (.lzxDecompress 11 22) ∧
    command 0x60 = .ok (.frmRun 11 22) ∧
    command 0x70 = .ok (.load [1, 2]) ∧
    command 0x7F = .ok .reset := by decide

/-- Opcodes outside the map (R69). -/
theorem test_decode_illegal_opcodes :
    command 0x00 = .ok (.illegal 0x00) ∧ command 0x08 = .ok (.illegal 0x08) ∧ command 0x1F = .ok (.illegal 0x1F) ∧
    command 0x7E = .ok (.illegal 0x7E) ∧ command 0x80 = .ok (.illegal 0x80) ∧ command 0xFF = .ok (.illegal 0xFF) :=
  by decide

/-- Chunk headers (R71) and the repeated offsets (R82) as bytes, the session bit (R73), block headers (R74): the 3 type
bits, then 16 high and 8 low bits of the size. -/
theorem test_decode_headers :
    decode (.element .chunkHeader [.raw 8 0xFF, .raw 16 0x0102, .raw 16 0x0304]) = .ok (.frmExplicit 0x0102 0x0304) ∧
    decode (.element .chunkHeader [.raw 16 0x0506]) = .ok (.frmImplicit 0x0506) ∧
    decode (.element .transform [.raw 1 1]) = .ok (.transform 1) ∧
    decode (.element .blockHeader [.raw 3 0b000, .raw 16 0x0102, .raw 8 0x03]) = .ok (.blockInvalid0 0x010203) ∧
    decode (.element .blockHeader [.raw 3 0b001, .raw 16 0x0102, .raw 8 0x03]) = .ok (.blockVerbatim 0x010203) ∧
    decode (.element .blockHeader [.raw 3 0b010, .raw 16 0x0102, .raw 8 0x03]) = .ok (.blockAligned 0x010203) ∧
    decode (.element .blockHeader [.raw 3 0b011, .raw 16 0x0102, .raw 8 0x03]) = .ok (.blockUncompressed 0x010203) ∧
    decode (.element .blockHeader [.raw 3 0b110, .raw 16 0x0102, .raw 8 0x03]) = .ok (.blockInvalid4to7 2 0x010203) ∧
    decode (.element .uncompReps [.raw 32 1, .raw 32 2, .raw 32 3]) = .ok (.uncompReps 1 2 3) ∧
    decode (.element .align []) = .ok .streamAlign ∧ decode (.element .uncompBytes []) = .ok .uncompBytes := by decide

/-- Tree lengths, symbol 0 first (R75, R77); pretree items (R77); the footer (R79) and the aligned symbol (R80)
alone. -/
theorem test_decode_tree_elements :
    decode (.element .alignedLengths ([1, 2, 3, 4, 5, 6, 7, 0].map (.raw 3)))
      = .ok (.alignedLengths #v[1, 2, 3, 4, 5, 6, 7, 0]) ∧
    decode (.element .pretree ([1, 2, 3, 4, 5, 6, 7, 8, 9, 10, 11, 12, 13, 14, 15, 0, 1, 2, 3, 4].map (.raw 4)))
      = .ok (.pretree #v[1, 2, 3, 4, 5, 6, 7, 8, 9, 10, 11, 12, 13, 14, 15, 0, 1, 2, 3, 4]) ∧
    decode (.element .pretreeItem [.sym .pretree 16]) = .ok (.ptDelta 16) ∧
    decode (.element .pretreeItem [.sym .pretree 17, .raw 4 0b1001]) = .ok (.ptZ4 9) ∧
    decode (.element .pretreeItem [.sym .pretree 18, .raw 5 0b10001]) = .ok (.ptZ20 17) ∧
    decode (.element .pretreeItem [.sym .pretree 19, .raw 1 1, .sym .pretree 4]) = .ok (.ptSame 1 4) ∧
    decode (.element .lengthFooter [.sym .length 248]) = .ok (.lenFoot 248) ∧
    decode (.element .alignedSymbol [.sym .aligned 5]) = .ok (.alignSym 5) := by decide

/-- What no element has: a wrong width, a missing footer, a symbol out of range, an implicit header FF. -/
theorem test_decode_refuses :
    decode (.element .chunkHeader [.raw 16 0xFF00]) = .error .implicitHeaderFF ∧
    decode (.element .transform [.raw 2 1]) = .error .fieldKind ∧
    decode (.element (.mainItem false .standard) [.sym .main 0x107]) = .error .fieldCount ∧
    decode (.element (.mainItem false .standard) [.sym .main 512]) = .error .valueRange ∧
    decode (.element .lengthFooter [.sym .length 249]) = .error .valueRange := by decide

/-- A main-tree element of a Verbatim block, of an Aligned block in the standard mode and in source_literal mode. -/
def verbatim (fields : List Field) : Except DecodeError Instr := decode (.element (.mainItem false .standard) fields)
def aligned (fields : List Field) : Except DecodeError Instr := decode (.element (.mainItem true .standard) fields)
def literalMode (fields : List Field) : Except DecodeError Instr :=
  decode (.element (.mainItem true .sourceLiteral) fields)

/-- Literals are `0cccccccc`; the slots 0 to 3 are `1000sslll` in every block (R78, R80). -/
theorem test_decode_literals_and_repeated_offsets :
    verbatim [.sym .main 0b001001000] = .ok (.lit 0x48) ∧ aligned [.sym .main 0b011111111] = .ok (.lit 0xFF) ∧
    verbatim [.sym .main 0b100000000] = .ok (.matchS0 0 none) ∧
    aligned [.sym .main 0b100000110] = .ok (.matchS0 6 none) ∧
    verbatim [.sym .main 0b100001111, .sym .length 9] = .ok (.matchS1 7 (some 9)) ∧
    verbatim [.sym .main 0b100010011] = .ok (.matchS2 3 none) ∧
    aligned [.sym .main 0b100011111, .sym .length 0] = .ok (.matchS3 7 (some 0)) := by decide

/-- Matches of the slots 4 to 17 in a Verbatim block: `1ssssslll`, the footer, the extra bits (R78 to R80). -/
theorem test_decode_verbatim_slots_4_to_17 :
    verbatim [.sym .main 0b100100010, .raw 1 1] = .ok (.matchVS4 2 none 1) ∧
    verbatim [.sym .main 0b100101111, .sym .length 31, .raw 1 1] = .ok (.matchVS5 7 (some 31) 1) ∧
    verbatim [.sym .main 0b100110010, .raw 2 1] = .ok (.matchVS6 2 none 1) ∧
    verbatim [.sym .main 0b100111111, .sym .length 31, .raw 2 1] = .ok (.matchVS7 7 (some 31) 1) ∧
    verbatim [.sym .main 0b101000010, .raw 3 5] = .ok (.matchVS8 2 none 5) ∧
    verbatim [.sym .main 0b101001111, .sym .length 31, .raw 3 5] = .ok (.matchVS9 7 (some 31) 5) ∧
    verbatim [.sym .main 0b101010010, .raw 4 13] = .ok (.matchVS10 2 none 13) ∧
    verbatim [.sym .main 0b101011111, .sym .length 31, .raw 4 13] = .ok (.matchVS11 7 (some 31) 13) ∧
    verbatim [.sym .main 0b101100010, .raw 5 29] = .ok (.matchVS12 2 none 29) ∧
    verbatim [.sym .main 0b101101111, .sym .length 31, .raw 5 29] = .ok (.matchVS13 7 (some 31) 29) ∧
    verbatim [.sym .main 0b101110010, .raw 6 29] = .ok (.matchVS14 2 none 29) ∧
    verbatim [.sym .main 0b101111111, .sym .length 31, .raw 6 29] = .ok (.matchVS15 7 (some 31) 29) ∧
    verbatim [.sym .main 0b110000010, .raw 7 93] = .ok (.matchVS16 2 none 93) ∧
    verbatim [.sym .main 0b110001111, .sym .length 31, .raw 7 93] = .ok (.matchVS17 7 (some 31) 93) := by decide

/-- The same in an Aligned block: the last three bits are the aligned symbol (R80). -/
theorem test_decode_aligned_slots_4_to_17 :
    aligned [.sym .main 0b100100010, .raw 1 1] = .ok (.matchAS4 2 none 1) ∧
    aligned [.sym .main 0b100101010, .raw 1 1] = .ok (.matchAS5 2 none 1) ∧
    aligned [.sym .main 0b100110010, .raw 2 1] = .ok (.matchAS6 2 none 1) ∧
    aligned [.sym .main 0b100111010, .raw 2 1] = .ok (.matchAS7 2 none 1) ∧
    aligned [.sym .main 0b101000010, .sym .aligned 6] = .ok (.matchAS8 2 none none 6) ∧
    literalMode [.sym .main 0b101000010, .raw 3 5, .sym .aligned 6] = .ok (.matchAS8 2 none (some 5) 6) ∧
    aligned [.sym .main 0b101001010, .sym .aligned 6] = .ok (.matchAS9 2 none none 6) ∧
    literalMode [.sym .main 0b101001010, .raw 3 5, .sym .aligned 6] = .ok (.matchAS9 2 none (some 5) 6) ∧
    aligned [.sym .main 0b101010010, .raw 1 1, .sym .aligned 6] = .ok (.matchAS10 2 none 1 6) ∧
    aligned [.sym .main 0b101011111, .sym .length 31, .raw 1 1, .sym .aligned 6]
      = .ok (.matchAS11 7 (some 31) 1 6) ∧
    aligned [.sym .main 0b101100010, .raw 2 3, .sym .aligned 6] = .ok (.matchAS12 2 none 3 6) ∧
    aligned [.sym .main 0b101101111, .sym .length 31, .raw 2 3, .sym .aligned 6]
      = .ok (.matchAS13 7 (some 31) 3 6) ∧
    aligned [.sym .main 0b101110010, .raw 3 3, .sym .aligned 6] = .ok (.matchAS14 2 none 3 6) ∧
    aligned [.sym .main 0b101111111, .sym .length 31, .raw 3 3, .sym .aligned 6]
      = .ok (.matchAS15 7 (some 31) 3 6) ∧
    aligned [.sym .main 0b110000010, .raw 4 11, .sym .aligned 6] = .ok (.matchAS16 2 none 11 6) ∧
    aligned [.sym .main 0b110001111, .sym .length 31, .raw 4 11, .sym .aligned 6]
      = .ok (.matchAS17 7 (some 31) 11 6) := by decide

/-- Matches of the slots 18 to 31 in a Verbatim block: `1ssssslll`, the footer, the extra bits (R78 to R80). -/
theorem test_decode_verbatim_slots_18_to_31 :
    verbatim [.sym .main 0b110010010, .raw 8 221] = .ok (.matchVS18 2 none 221) ∧
    verbatim [.sym .main 0b110011111, .sym .length 31, .raw 8 221] = .ok (.matchVS19 7 (some 31) 221) ∧
    verbatim [.sym .main 0b110100010, .raw 9 477] = .ok (.matchVS20 2 none 477) ∧
    verbatim [.sym .main 0b110101111, .sym .length 31, .raw 9 477] = .ok (.matchVS21 7 (some 31) 477) ∧
    verbatim [.sym .main 0b110110010, .raw 10 477] = .ok (.matchVS22 2 none 477) ∧
    verbatim [.sym .main 0b110111111, .sym .length 31, .raw 10 477] = .ok (.matchVS23 7 (some 31) 477) ∧
    verbatim [.sym .main 0b111000010, .raw 11 1501] = .ok (.matchVS24 2 none 1501) ∧
    verbatim [.sym .main 0b111001111, .sym .length 31, .raw 11 1501] = .ok (.matchVS25 7 (some 31) 1501) ∧
    verbatim [.sym .main 0b111010010, .raw 12 3549] = .ok (.matchVS26 2 none 3549) ∧
    verbatim [.sym .main 0b111011111, .sym .length 31, .raw 12 3549] = .ok (.matchVS27 7 (some 31) 3549) ∧
    verbatim [.sym .main 0b111100010, .raw 13 3549] = .ok (.matchVS28 2 none 3549) ∧
    verbatim [.sym .main 0b111101111, .sym .length 31, .raw 13 3549] = .ok (.matchVS29 7 (some 31) 3549) ∧
    verbatim [.sym .main 0b111110010, .raw 14 11741] = .ok (.matchVS30 2 none 11741) ∧
    verbatim [.sym .main 0b111111111, .sym .length 31, .raw 14 11741] = .ok (.matchVS31 7 (some 31) 11741) := by decide

/-- The same in an Aligned block: the last three bits are the aligned symbol (R80). -/
theorem test_decode_aligned_slots_18_to_31 :
    aligned [.sym .main 0b110010010, .raw 5 27, .sym .aligned 6] = .ok (.matchAS18 2 none 27 6) ∧
    aligned [.sym .main 0b110011111, .sym .length 31, .raw 5 27, .sym .aligned 6]
      = .ok (.matchAS19 7 (some 31) 27 6) ∧
    aligned [.sym .main 0b110100010, .raw 6 59, .sym .aligned 6] = .ok (.matchAS20 2 none 59 6) ∧
    aligned [.sym .main 0b110101111, .sym .length 31, .raw 6 59, .sym .aligned 6]
      = .ok (.matchAS21 7 (some 31) 59 6) ∧
    aligned [.sym .main 0b110110010, .raw 7 59, .sym .aligned 6] = .ok (.matchAS22 2 none 59 6) ∧
    aligned [.sym .main 0b110111111, .sym .length 31, .raw 7 59, .sym .aligned 6]
      = .ok (.matchAS23 7 (some 31) 59 6) ∧
    aligned [.sym .main 0b111000010, .raw 8 187, .sym .aligned 6] = .ok (.matchAS24 2 none 187 6) ∧
    aligned [.sym .main 0b111001111, .sym .length 31, .raw 8 187, .sym .aligned 6]
      = .ok (.matchAS25 7 (some 31) 187 6) ∧
    aligned [.sym .main 0b111010010, .raw 9 443, .sym .aligned 6] = .ok (.matchAS26 2 none 443 6) ∧
    aligned [.sym .main 0b111011111, .sym .length 31, .raw 9 443, .sym .aligned 6]
      = .ok (.matchAS27 7 (some 31) 443 6) ∧
    aligned [.sym .main 0b111100010, .raw 10 443, .sym .aligned 6] = .ok (.matchAS28 2 none 443 6) ∧
    aligned [.sym .main 0b111101111, .sym .length 31, .raw 10 443, .sym .aligned 6]
      = .ok (.matchAS29 7 (some 31) 443 6) ∧
    aligned [.sym .main 0b111110010, .raw 11 1467, .sym .aligned 6] = .ok (.matchAS30 2 none 1467 6) ∧
    aligned [.sym .main 0b111111111, .sym .length 31, .raw 11 1467, .sym .aligned 6]
      = .ok (.matchAS31 7 (some 31) 1467 6) := by decide

/-- The opcode-table words of a host command and of main symbols. -/
theorem test_decode_table_words :
    decodeTableWord 8 0x12 = some .readU16LE ∧ decodeTableWord 8 0x7F = some .reset ∧
    decodeTableWord 16 0x041 = some (.lit 0x41) ∧ decodeTableWord 16 0x11B = some (.matchS3 3 none) ∧
    decodeTableWord 16 0x127 = some (.matchVS4 7 (some 0) 0) ∧ decodeTableWord 16 0x200 = none := by decide

/-! ## Small states -/

/-- A core just loaded with some bytes. -/
def loaded (data : List Byte) : State := State.reset.withStore data

/-- The cursors set. -/
def atBit (s : State) (b : U32) (k : BitVec 4) : State := { s with byteOffset := b, bitOffset := k }

/-- A table built from lengths. -/
def tableOf (tb : Nat) (lens : List Nat) : Table :=
  match buildTable false tb lens with
  | .ok t => { valid := true, leaves := t }
  | .error _ => {}

/-- A pretree with the codes 0 for symbol 17, 10 for symbol 2, 11 for symbol 19, and 256 main lengths to be read. -/
def withPretree (s : State) : State :=
  { s with
    pretreeLen := #v[0, 0, 2, 0, 0, 0, 0, 0, 0, 0, 0, 0, 0, 0, 0, 0, 0, 1, 0, 2].map some
    pretreeTable := tableOf 6 [0, 0, 2, 0, 0, 0, 0, 0, 0, 0, 0, 0, 0, 0, 0, 0, 0, 1, 0, 2]
    tmp := { opcode := 0x51, last := 256 } }

/-- Main symbols as 9-bit codes, length symbols 7.. as 8-bit codes 7 above their value, aligned symbols as 3-bit codes;
a block of some type, a run of 300 bytes. -/
def withTrees (s : State) (type : BitVec 3) : State :=
  { s with
    mainLen := flatMainLengths
    mainTable := flatMainTable
    lengthLen := flatLengthLengths
    lengthTable := flatLengthTable
    alignedLen := Vector.replicate 8 (some 3)
    alignedTable := tableOf 7 [3, 3, 3, 3, 3, 3, 3, 3]
    headerRead := true
    blockType := type
    blockRemaining := 300
    tmp := { opcode := 0x51, run := 300 } }

/-- A core that has faulted on an illegal opcode 0xFF. -/
def faultedCore : State :=
  faulting 0xFF .illegalOpcode State.reset

/-- The host's table built from some lengths, the store loaded with some bytes. -/
def withHostTable (data : List Byte) (n : BitVec 11) (tb : BitVec 5) (lens : List Nat) (accept : Bool := false) :
    State :=
  { loaded data with
    hostN := n
    hostTb := tb
    hostLen := writeLengths (Vector.replicate 1024 0) 0 lens
    hostTable := match buildTable accept tb.toNat lens with
      | .ok t => { valid := true, leaves := t }
      | .error _ => {}
    params := { emptyTreeAccept := accept } }

/-- Does an outcome go on, to a state with some property? -/
def answers (o : Host.Outcome State Fault Refusal) (f : State → Bool) : Bool :=
  match o with
  | .next t => f t
  | .fault _ => false
  | .refused _ => false

theorem next_of_answers {o : Host.Outcome State Fault Refusal} {f : State → Bool} (h : answers o f = true) :
    ∃ t, o = .next t ∧ f t = true := by
  cases o with
  | next t => exact ⟨t, rfl, h⟩
  | fault _ => cases h
  | refused _ => cases h

/-- The outcome is a next state with this response. -/
def responds (o : Host.Outcome State Fault Refusal) (r : Response) : Bool :=
  answers o fun t => t.response == some r

theorem next_of_responds {o : Host.Outcome State Fault Refusal} {r : Response} (h : responds o r = true) :
    ∃ t, o = .next t ∧ t.response = some r := by
  obtain ⟨t, h1, h2⟩ := next_of_answers h
  exact ⟨t, h1, beq_iff_eq.1 h2⟩

/-- The element fetched, if any. -/
def fetched (k : ElemKind) (s : State) : Option Instr :=
  match fetchElement k s with
  | .ok i _ => some i
  | .error _ _ => none

/-! ## Elements as bits of a stream

The frames are written by hand from 30_encoding.md: bits from bit 15 down, each frame low byte first. -/

/-- `1`: frame 0x8000. -/
theorem test_bits_transform : fetched .transform (loaded [0x00, 0x80]) = some (.transform 1) := by decide +kernel

/-- `011`, `0000000000000000`, `00000110`: frames 0x6000, 0x00C0. -/
theorem test_bits_block_header :
    fetched .blockHeader (loaded [0x00, 0x60, 0xC0, 0x00]) = some (.blockUncompressed 6) := by decide +kernel

/-- Bytes FF 01 02 03 04, and 01 02. -/
theorem test_bytes_chunk_headers :
    fetched .chunkHeader (loaded [0xFF, 1, 2, 3, 4]) = some (.frmExplicit 0x0102 0x0304) ∧
    fetched .chunkHeader (loaded [1, 2]) = some (.frmImplicit 0x0102) := by decide +kernel

/-- Three little-endian offsets. -/
theorem test_bytes_uncompressed_offsets :
    fetched .uncompReps (loaded [1, 2, 3, 4, 5, 0, 0, 0, 0, 0, 0, 6]) = some (.uncompReps 0x04030201 5 0x06000000) := by
  decide +kernel

/-- `0`, `1001`: frame 0x4800; `11`, `1`, `10`: frame 0xF000. -/
theorem test_bits_pretree_items :
    fetched .pretreeItem (withPretree (loaded [0x00, 0x48])) = some (.ptZ4 9) ∧
    fetched .pretreeItem (withPretree (loaded [0x00, 0xF0])) = some (.ptSame 1 2) := by decide +kernel

/-- `001` eight times: frames 0x2492, 0x4900. -/
theorem test_bits_aligned_lengths :
    fetched .alignedLengths (loaded [0x92, 0x24, 0x00, 0x49]) = some (.alignedLengths (Vector.replicate 8 1)) := by
  decide +kernel

/-- `001001000`: frame 0x2400. -/
theorem test_bits_literal : fetched .mainItem (withTrees (loaded [0x00, 0x24]) 1) = some (.lit 0x48) := by
  decide +kernel

/-- `100100111`, the code `00100110` of footer 31, `1`: frames 0x9393, 0x4000. -/
theorem test_bits_verbatim_match :
    fetched .mainItem (withTrees (loaded [0x93, 0x93, 0x00, 0x40]) 1) = some (.matchVS4 7 (some 31) 1) := by
  decide +kernel

/-- `101000010`, the code `110` of aligned symbol 6: frame 0xA160. -/
theorem test_bits_aligned_match :
    fetched .mainItem (withTrees (loaded [0x60, 0xA1]) 2) = some (.matchAS8 2 none none 6) := by decide +kernel

/-! ## Where 10_state.md R21 and 41_buffer.md R92 part -/

/-- A store of 3 bytes; READ_BITS 4 begins the frame at 0 (R90), two byte reads keep BIT_OFFSET (R94), and ALIGN adds 2
(R92) without a fault (R121): BYTE_OFFSET 4; the next read faults (10 R40). -/
theorem test_align_past_the_store :
    (run [{ opcode := 0x70, data := [1, 2, 3] }, { opcode := 0x30, a := 4 }, { opcode := 0x10 }, { opcode := 0x10 },
        { opcode := 0x33 }, { opcode := 0x05 }, { opcode := 0x10 }] State.reset).map (·.2)
      = some [.ok .empty, .ok (.nat 0), .ok (.nat 1), .ok (.nat 2), .ok .empty, .ok (.position 4 0),
        .fault .readPastEnd] := by decide +kernel

/-! ## Opcode-table words run -/

theorem test_withFetchWord_runs :
    responds (step (State.reset.withFetchWord 8 0x05)) (.ok (.position 0 0)) = true ∧
    responds (step (State.reset.withFetchWord 16 0x041)) (.ok (.bytes [0x41])) = true ∧
    responds (step (State.reset.withFetchWord 16 0x127)) (.fault .unwrittenWindowRead) = true := by decide +kernel

/-! ## Worked values of the spec

One step each. The expected values are those of the rules' formulas and of 95_test_vectors.md, computed by hand. -/

/-- Byte order and sign (41_buffer.md R101 to R110). -/
theorem test_integer_reads :
    responds (exec .readI8 (loaded [0xFF])) (.ok (.int (-1))) = true ∧
    responds (exec .readU16LE (loaded [0x34, 0x12])) (.ok (.nat 0x1234)) = true ∧
    responds (exec .readI16BE (loaded [0x80, 0x00])) (.ok (.int (-32768))) = true ∧
    responds (exec .readU32BE (loaded [1, 2, 3, 4])) (.ok (.nat 0x01020304)) = true ∧
    responds (exec .readI32LE (loaded [0xFE, 0xFF, 0xFF, 0xFF])) (.ok (.int (-2))) = true := by decide +kernel

/-- A float is its bit pattern: 1.0 (41_buffer.md R111 to R114). -/
theorem test_float_reads :
    responds (exec .readF32LE (loaded [0x00, 0x00, 0x80, 0x3F])) (.ok (.nat 0x3F800000)) = true ∧
    responds (exec .readF64BE (loaded [0x3F, 0xF0, 0, 0, 0, 0, 0, 0])) (.ok (.nat 0x3FF0000000000000)) = true := by
  decide +kernel

/-- 0xAC 0x02 is 300 (41_buffer.md R115); a string takes its length first (R116). -/
theorem test_varint_and_string :
    responds (exec .read7Bit (loaded [0xAC, 0x02])) (.ok (.nat 300)) = true ∧
    responds (exec .readString (loaded [0x02, 0x68, 0x69, 0x00])) (.ok (.bytes [0x68, 0x69])) = true := by
  decide +kernel

/-- Bits go from bit 15 of a frame down, the frame low byte first (20_memory.md R50, R51): frame 0xB234. -/
theorem test_bit_order :
    responds (exec (.readBits 4) (loaded [0x34, 0xB2])) (.ok (.nat 0xB)) = true ∧
    responds (exec (.readBits 12) (atBit (loaded [0x34, 0xB2]) 0 4)) (.ok (.nat 0x234)) = true := by decide +kernel

/-- Lengths 2, 1, 2: the codes are 10, 0, 11 (42_huffman.md R129); the stream begins 11. -/
theorem test_canonical_codes :
    canonicalCode [2, 1, 2] 0 = 0b10 ∧ canonicalCode [2, 1, 2] 1 = 0 ∧ canonicalCode [2, 1, 2] 2 = 0b11 ∧
    responds (exec .hufDecode (withHostTable [0x00, 0xC0] 3 2 [2, 1, 2])) (.ok (.nat 2)) = true := by decide +kernel

/-- A match of length 2 and offset 1 repeats the byte before it (44_lzx_decode.md R162). -/
theorem test_match_repeats :
    answers (exec (.matchS0 0 none) { withTrees State.reset 1 with window := [(0, 7)], windowPosn := 1 })
      (fun t => t.window == [(0, 7), (1, 7), (2, 7)] && t.windowPosn == 3 && t.tmp.run == 298) = true := by
  decide +kernel

/-- The three kinds of cache update (44_lzx_decode.md R155, R156, R158), with offsets 1, 2, 3 in the cache. -/
theorem test_match_cache :
    let s : State :=
      { withTrees State.reset 1 with
        window := [(0, 5), (1, 6), (2, 7)], windowPosn := 3, rep0 := 1, rep1 := 2, rep2 := 3 }
    answers (exec (.matchS1 0 none) s) (fun t => (t.rep0, t.rep1, t.rep2) == (2, 1, 3)) = true ∧
    answers (exec (.matchS2 0 none) s) (fun t => (t.rep0, t.rep1, t.rep2) == (3, 2, 1)) = true ∧
    answers (exec (.matchVS4 0 none 1) s) (fun t => (t.rep0, t.rep1, t.rep2) == (3, 1, 2)) = true := by decide +kernel

/-! ## Witnesses

Each shows concrete operands and a concrete state that meet all hypotheses of the statement it is named after, clause by
clause. -/

/-- A core that has been asked for GET_POS. -/
def asked : State := { State.reset with pending := [{ opcode := 0x05 }] }

/-- Why a fetch ended early, if it did. -/
def unfetched (k : ElemKind) (s : State) : Option Stop :=
  match fetchElement k s with
  | .ok _ _ => none
  | .error e _ => some e

theorem test_witness_IllegalOpcodesFault :
    State.reset.faulted = false ∧ decodeCommand { opcode := 0x00 } = .illegal 0x00 ∧
    decodeCommand { opcode := 0x80 } = .illegal 0x80 ∧ decodeCommand { opcode := 0xFF } = .illegal 0xFF ∧
    decodeCommand { opcode := 0x7E } = .illegal 0x7E ∧ decodeCommand { opcode := 0x7F } ≠ .illegal 0x7F := by decide

theorem test_witness_DecodeInvertsEncode :
    Instr.wellFormed (.matchAS9 7 (some 248) (some 7) 7) = true ∧ Instr.wellFormed (.illegal 0xFF) = true := by decide

theorem test_witness_ElementDeterminesFields :
    decodeElement (.mainItem true .sourceLiteral) [.sym .main 0x14F, .sym .length 248, .raw 3 7, .sym .aligned 7]
      = .ok (.matchAS9 7 (some 248) (some 7) 7) := by decide

theorem test_witness_SlotsPartitionOffsets :
    ((1 : Nat) ≤ 1 ∧ (1 : Nat) ≤ 65533) ∧ (3 ≤ 3 ∧ 3 < 32 ∧ 0 < 2 ^ extraBits 3) ∧
    (3 ≤ 31 ∧ 31 < 32 ∧ 16383 < 2 ^ extraBits 31) := by decide

/-- A command; no command; an element that is there, one that is not. -/
theorem test_witness_StepRunsTheDecodedInstruction :
    decode (.command { opcode := 0x05 }) = .ok .getPos ∧
    asked.pending = [{ opcode := 0x05 }] ∧ fetched .transform (loaded [0x00, 0x80]) = some (.transform 1) ∧
    unfetched .transform State.reset = some (.raise .readPastEnd) ∧ State.reset.faulted = false ∧
    State.reset.pending = [] := by decide +kernel

theorem test_witness_ResetRestoresTheResetValues :
    faultedCore.faulted = true ∧ answers (exec .reset faultedCore) (fun t => !t.faulted) = true := by decide +kernel

/-- Every clause: another command, REG_READ of a reserved number, ARRAY_READ outside the map, RESET. -/
theorem test_witness_FaultedCoreRefuses :
    faultedCore.faulted = true ∧ ((0x05 : BitVec 8) ≠ 0x06 ∧ (0x05 : BitVec 8) ≠ 0x07 ∧ (0x05 : BitVec 8) ≠ 0x7F) ∧
    (∀ p ∈ registerMap faultedCore, p.1 ≠ 0x04) ∧ noElement faultedCore 7 0 ∧ noElement faultedCore 6 0 := by
  decide +kernel

theorem test_witness_FaultIsSticky :
    (faultedCore.faulted = true ∧ answers (exec .getPos faultedCore) (fun _ => true) = true) ∧
    (run [{ opcode := 0xFF }] State.reset).any (fun p => p.1.faulted) = true := by decide +kernel

/-- A command that faults, and one that succeeds. -/
theorem test_witness_FaultRecordsItsCommand :
    State.reset.faulted = false ∧
    responds (exec (decodeCommand { opcode := 0x10 }) State.reset) (.fault .readPastEnd) = true ∧
    responds (exec (decodeCommand { opcode := 0x05 }) State.reset) (.ok (.position 0 0)) = true := by decide +kernel

/-- A command for every clause. -/
theorem test_witness_CausesComeFromTheirCommands :
    responds (exec (.lzxDecompress 1 1) (loaded [0x00, 0x80])) (.fault .transformBitSet) = true ∧
    responds (exec (.frmRun 0 1) State.reset) (.fault .outputLengthMismatch) = true ∧
    responds (exec (.hufBuild 3 1 [1, 1, 1]) State.reset) (.fault .buildOverrun) = true ∧
    responds (exec (.hufBuild 1 1 [1]) State.reset) (.fault .buildIncomplete) = true ∧
    responds (exec .hufDecode (withHostTable [0, 0] 1 1 [0] true)) (.fault .decodeUnfilled) = true ∧
    responds (exec .hufDecode State.reset) (.fault .tableNotBuilt) = true ∧
    responds (exec .read7Bit (loaded [0x80, 0x80, 0x80, 0x80, 0x80])) (.fault .noTerminator) = true ∧
    responds (exec (.illegal 0xFF) State.reset) (.fault .illegalOpcode) = true ∧
    responds (exec (.regRead 0x04) State.reset) (.fault .reservedRegister) = true := by decide +kernel

theorem test_witness_StepKeepsTheInvariant : Invariant asked ∧ ∃ t, step asked = .next t where
  left := {
    store := by decide
    window := by decide
    posn := by decide
    mainLens := fun i => by constructor <;> simp [asked, State.reset]
    lengthLens := fun i => by constructor <;> simp [asked, State.reset]
    hostSize := by decide
    hostLens := fun i => by simp [asked, State.reset]
    pretreeSymbols := fun _ h => absurd h List.not_mem_nil
    mainSymbols := fun _ h => absurd h List.not_mem_nil
    lengthSymbols := fun _ h => absurd h List.not_mem_nil
    alignedSymbols := fun _ h => absurd h List.not_mem_nil
    hostSymbols := fun _ h => absurd h List.not_mem_nil
    fault := ⟨rfl, rfl, rfl, rfl, rfl⟩ }
  right := ⟨_, rfl⟩

theorem test_witness_EveryCommandEnds : Invariant asked ∧ asked.pending = [{ opcode := 0x05 }] :=
  ⟨test_witness_StepKeepsTheInvariant.1, rfl⟩

theorem test_witness_OnlyLoadAndResetChangeTheStore :
    (∃ t, exec .readU8 (loaded [1]) = .next t) ∧ (∀ data, Instr.readU8 ≠ .load data) ∧ Instr.readU8 ≠ .reset :=
  ⟨⟨_, rfl⟩, fun _ h => Instr.noConfusion h, by decide⟩

/-- A read that succeeds, and one that faults. -/
theorem test_witness_BufferCommandsWriteOnlyCursors :
    responds (exec (decodeCommand { opcode := 0x10 }) (loaded [1])) (.ok (.nat 1)) = true ∧
    responds (exec (decodeCommand { opcode := 0x10 }) State.reset) (.fault .readPastEnd) = true := by decide +kernel

/-- Both commands end with a result: an empty frame in an open session, an empty container. -/
theorem test_witness_EngineCommandsFrame :
    responds (exec (.lzxDecompress 0 0) { State.reset with headerRead := true }) (.ok (.bytes [])) = true ∧
    responds (exec (.frmRun 0 0) State.reset) (.ok (.bytes [])) = true ∧ State.reset.faulted = false := by decide +kernel

/-- The cursor one byte before the end, and at the end; ALIGN in a frame whose second byte is not in STORE. -/
theorem test_witness_ReadsStayInTheStore :
    (loaded [1]).byteOffset ≤ (loaded [1]).storeLen ∧
    answers (exec (decodeCommand { opcode := 0x10 }) (loaded [1])) (fun t => t.byteOffset == t.storeLen) = true ∧
    State.reset.byteOffset ≤ State.reset.storeLen ∧
    responds (exec (decodeCommand { opcode := 0x30, a := 16 }) State.reset) (.fault .readPastEnd) = true ∧
    answers (exec .align (atBit (loaded [1, 2, 3]) 2 4)) (fun t => t.byteOff == 4 && t.bitOff == 0) = true ∧
    ((atBit (loaded [1, 2, 3]) 1 4).byteOff + 2 ≤ (atBit (loaded [1, 2, 3]) 1 4).storeLen.toNat ∧
      answers (exec .align (atBit (loaded [1, 2, 3]) 1 4)) (fun t => t.byteOff == 3 && t.bitOff == 0) = true) := by
  decide +kernel

/-- The last byte and one byte too few, for both widths. -/
theorem test_witness_SmallIntegerReads :
    (loaded [1, 2]).faulted = false ∧ (loaded [1]).byteOff + 1 ≤ (loaded [1]).storeLen.toNat ∧
    ¬(loaded []).byteOff + 1 ≤ (loaded []).storeLen.toNat ∧ (loaded [1, 2]).byteOff + 2 ≤ (loaded [1, 2]).storeLen.toNat ∧
    ¬(loaded [1]).byteOff + 2 ≤ (loaded [1]).storeLen.toNat := by decide +kernel

theorem test_witness_WideReads :
    (loaded [1, 2, 3, 4]).faulted = false ∧ (loaded [1, 2, 3, 4]).byteOff + 4 ≤ (loaded [1, 2, 3, 4]).storeLen.toNat ∧
    ¬(loaded [1, 2, 3]).byteOff + 4 ≤ (loaded [1, 2, 3]).storeLen.toNat ∧
    (loaded [1, 2, 3, 4, 5, 6, 7, 8]).byteOff + 8 ≤ (loaded [1, 2, 3, 4, 5, 6, 7, 8]).storeLen.toNat ∧
    ¬(loaded [1, 2, 3, 4, 5, 6, 7]).byteOff + 8 ≤ (loaded [1, 2, 3, 4, 5, 6, 7]).storeLen.toNat := by decide +kernel

theorem test_witness_RawByteReads :
    (loaded [1, 2]).faulted = false ∧ (loaded [1, 2]).byteOff + (2 : U32).toNat ≤ (loaded [1, 2]).storeLen.toNat ∧
    ¬(loaded [1, 2]).byteOff + (3 : U32).toNat ≤ (loaded [1, 2]).storeLen.toNat ∧
    ¬(loaded [1]).byteOff + 2 ≤ (loaded [1]).storeLen.toNat := by decide +kernel

/-- One byte and five; five with continuation bits; the end of STORE after none and after four; a cursor beyond it. -/
theorem test_witness_SevenBitIntegers :
    (loaded [1]).faulted = false ∧ varintAhead (loaded [1]) 0 ∧ varintAhead (loaded [0x80, 0x80, 0x80, 0x80, 0x0F]) 4 ∧
    continued (loaded [0x80, 0x80, 0x80, 0x80, 0x80]) 5 ∧
    (continued (loaded []) 0 ∧ (loaded []).byteOff + 0 = (loaded []).storeLen.toNat) ∧
    (continued (loaded [0x80, 0x80, 0x80, 0x80]) 4 ∧
      (loaded [0x80, 0x80, 0x80, 0x80]).byteOff + 4 = (loaded [0x80, 0x80, 0x80, 0x80]).storeLen.toNat) ∧
    (atBit (loaded []) 1 0).storeLen.toNat < (atBit (loaded []) 1 0).byteOff := by decide +kernel

/-- A string that ends with STORE, and one a byte too long. -/
theorem test_witness_LengthPrefixedStrings :
    (varintAhead (loaded [1, 0x41]) 0 ∧
      (loaded [1, 0x41]).byteOff + (0 + 1) + varint (loaded [1, 0x41]) (0 + 1) ≤ (loaded [1, 0x41]).storeLen.toNat) ∧
    (varintAhead (loaded [2, 0x41]) 0 ∧
      ¬(loaded [2, 0x41]).byteOff + (0 + 1) + varint (loaded [2, 0x41]) (0 + 1) ≤ (loaded [2, 0x41]).storeLen.toNat) := by
  decide +kernel

/-- Targets -1, 2^32 - 1 and 2^32. -/
theorem test_witness_SeekCommands :
    (loaded []).faulted = false ∧ (((loaded []).byteOff : Int) + signed 32 (0xFFFFFFFF : U32).toNat = -1) ∧
    (((atBit (loaded []) 0xFFFFFFFE 0).byteOff : Int) + signed 32 (1 : U32).toNat = 2 ^ 32 - 1) ∧
    (((atBit (loaded []) 0xFFFFFFFF 0).byteOff : Int) + signed 32 (1 : U32).toNat = 2 ^ 32) := by decide +kernel

/-- A byte offset of 2^32 and one just below it; a position before the store. -/
theorem test_witness_BitPositionNormalises :
    (loaded []).faulted = false ∧
    ((atBit (loaded []) 0xFFFFFFFE 0).byteOff : Int) + 2 * Int.fdiv (signed 32 (16 : U32).toNat) 16 = 2 ^ 32 ∧
    ((atBit (loaded []) 0xFFFFFFFD 0).byteOff : Int) + 2 * Int.fdiv (signed 32 (16 : U32).toNat) 16 = 2 ^ 32 - 1 ∧
    ((loaded []).byteOff : Int) + 2 * Int.fdiv (signed 32 (0xFFFFFFFF : U32).toNat) 16 = -2 := by decide +kernel

theorem test_witness_AlignToFrame :
    (loaded []).faulted = false ∧ (loaded []).bitOff = 0 ∧ (atBit (loaded []) 0xFFFFFFFD 1).byteOff + 2 < 2 ^ 32 ∧
    ¬((atBit (loaded []) 0xFFFFFFFE 1).bitOff = 0 ∨ (atBit (loaded []) 0xFFFFFFFE 1).byteOff + 2 < 2 ^ 32) := by
  decide +kernel

/-- 17 bits; 16 bits across two frames; the second frame missing; both missing. -/
theorem test_witness_BitReads :
    (loaded []).faulted = false ∧ 16 < (17 : U32).toNat ∧ framesPresent (atBit (loaded [1, 2, 3, 4]) 0 1) (16 : U32).toNat ∧
    (¬framesPresent (atBit (loaded [1, 2, 3]) 0 1) (16 : U32).toNat ∧
      (atBit (loaded [1, 2, 3]) 0 1).byteOff + 2 ≤ (atBit (loaded [1, 2, 3]) 0 1).storeLen.toNat) ∧
    (¬framesPresent (loaded [1]) (1 : U32).toNat ∧ ¬(loaded [1]).byteOff + 2 ≤ (loaded [1]).storeLen.toNat) ∧
    framesPresent (loaded []) (0 : U32).toNat := by decide +kernel

theorem test_witness_BitPeeks :
    (loaded []).faulted = false ∧ 32 < (33 : U32).toNat ∧ framesPresent (loaded [1, 2, 3, 4]) (32 : U32).toNat ∧
    ¬framesPresent (loaded [1, 2, 3]) (32 : U32).toNat := by decide +kernel

theorem test_witness_BitReadsConcatenate :
    (loaded [1, 2, 3, 4]).faulted = false ∧ (16 : U32).toNat ≤ 16 ∧
    framesPresent (loaded [1, 2, 3, 4]) ((16 : U32).toNat + (16 : U32).toNat) := by decide +kernel

theorem test_witness_RegisterReads :
    (0x32, 0) ∈ registerMap State.reset ∧ ∀ p ∈ registerMap State.reset, p.1 ≠ 0x33 := by decide +kernel

/-- A core with one byte of output and one host length. -/
def observed : State := { State.reset with frmOut := [1], hostN := 1 }

/-- The last element of each array, and the first index past it. -/
theorem test_witness_ArrayReads :
    655 < 656 ∧ noElement State.reset 0 656 ∧ noElement State.reset 1 250 ∧ noElement State.reset 2 8 ∧
    noElement State.reset 3 20 ∧ noElement State.reset 4 65536 ∧
    0 < observed.frmOut.length ∧ noElement observed 5 1 ∧ (0 < 1024 ∧ 0 < observed.hostN.toNat) ∧
    noElement observed 6 1 ∧ noElement State.reset 7 0 := by
  refine ⟨?_, ?_, ?_, ?_, ?_, ?_, ?_, ?_, ?_, ?_, ?_⟩ <;> decide +kernel

theorem test_witness_LoadReplacesTheStore :
    State.reset.faulted = false ∧ ([1, 2, 3] : List Byte).length < 2 ^ 32 ∧
    ¬(List.replicate (2 ^ 32) (0 : Byte)).length < 2 ^ 32 := by
  refine ⟨rfl, by decide, ?_⟩
  rw [List.length_replicate]
  exact Nat.lt_irrefl _

/-- Operands in range with a complete code, with a code that is not; operands out of range. -/
theorem test_witness_HufBuildOutcome :
    State.reset.faulted = false ∧
    (((1 : Nat) ≤ 2 ∧ 2 ≤ 1024) ∧ ((1 : Nat) ≤ 16 ∧ 16 ≤ 16) ∧ ([16, 1] : List Byte).length = 2 ∧
      ∀ l ∈ ([16, 1] : List Byte), l.toNat ≤ 16) ∧
    buildOutcome false 1 [1, 1] = none ∧ buildOutcome true 1 [0, 0] = none ∧
    buildOutcome false 16 [16, 1] = some .buildIncomplete ∧ buildOutcome false 1 [1, 1, 1] = some .buildOverrun ∧
    ¬((1 : Nat) ≤ (17 : U32).toNat ∧ (17 : U32).toNat ≤ 16) := by decide +kernel

/-- Lengths 2, 1, 2: symbol 1 is first, symbol 0 follows it. -/
theorem test_witness_CanonicalCodesCount :
    codeLengths [2, 1, 2] ∧ ([2, 1, 2] : List Nat).getD 1 0 ≠ 0 ∧
    (∀ c < 3, ¬(([2, 1, 2] : List Nat).getD c 0 < 1 ∨ ([2, 1, 2] : List Nat).getD c 0 = 1 ∧ c < 1)) ∧
    ([2, 1, 2] : List Nat).getD 1 0 < ([2, 1, 2] : List Nat).getD 0 0 ∧
    ∀ c < 3, ¬(([2, 1, 2] : List Nat).getD 1 0 < ([2, 1, 2] : List Nat).getD c 0 ∧
      ([2, 1, 2] : List Nat).getD c 0 = ([2, 1, 2] : List Nat).getD 0 0 ∧ c < 0) := by decide

/-- Symbol 1 within the table bits, with as many bits in STORE as they are; symbol 2 beyond them, with 32. -/
theorem test_witness_HufDecodeFindsTheCode :
    let s := withHostTable [0x00, 0x00] 3 1 [2, 1, 2]
    let u := withHostTable [0x00, 0xC0, 0x00, 0x00] 3 1 [2, 1, 2]
    (s.faulted = false ∧ 1 ≤ s.hostTb.toNat ∧ s.hostTb.toNat ≤ 16 ∧ s.hostTable.valid = true ∧
      buildTable s.params.emptyTreeAccept s.hostTb.toNat s.hostLengths = .ok s.hostTable.leaves ∧
      codeLengths s.hostLengths ∧ kraft 16 s.hostLengths = 65536 ∧ s.hostLengths.getD 1 0 = 1 ∧
      streamBits s 1 = bitsOf 1 (canonicalCode s.hostLengths 1) ∧ framesPresent s s.hostTb.toNat) ∧
    (u.hostTable.valid = true ∧ u.hostLengths.getD 2 0 = 2 ∧
      streamBits u 2 = bitsOf 2 (canonicalCode u.hostLengths 2) ∧ framesPresent u 32) := by decide +kernel

/-- HUF_BUILD succeeds on lengths 1, 1; the state after it is a state to decode in. -/
theorem test_witness_HufDecodeIsTotal :
    ∃ t, exec (.hufBuild 2 1 [1, 1]) (loaded [0x00, 0x80]) = .next t ∧
      (State.reset.faulted = false ∧ t.response = some (.ok .empty) ∧ (∃ l ∈ ([1, 1] : List Byte), l ≠ 0) ∧
        t.faulted = false) := by
  obtain ⟨t, h1, h2⟩ := next_of_answers (o := exec (.hufBuild 2 1 [1, 1]) (loaded [0x00, 0x80]))
    (f := fun t => t.response == some (.ok .empty) && !t.faulted) (by decide +kernel)
  rw [Bool.and_eq_true, beq_iff_eq, Bool.not_eq_true'] at h2
  exact ⟨t, h1, rfl, h2.1, ⟨1, by decide⟩, h2.2⟩

/-- No table; a table and no bits; the empty table that is accepted; the bits `11` of symbol 2 in a store of one frame
(42_huffman.md R136). -/
theorem test_witness_HufDecodeFaults :
    let s := withHostTable [0x00, 0x00] 2 1 [0, 0] true
    let u := withHostTable [0x00, 0xC0] 3 1 [2, 1, 2]
    State.reset.hostTable.valid = false ∧
    ((withHostTable [] 2 1 [1, 1]).hostTable.valid = true ∧
      ¬framesPresent (withHostTable [] 2 1 [1, 1]) (withHostTable [] 2 1 [1, 1]).hostTb.toNat) ∧
    (s.faulted = false ∧ s.hostTable.valid = true ∧ framesPresent s s.hostTb.toNat ∧ (∀ l ∈ s.hostLengths, l = 0) ∧
      buildTable true s.hostTb.toNat s.hostLengths = .ok s.hostTable.leaves ∧ 1 ≤ s.hostTb.toNat ∧
      s.hostTb.toNat ≤ 16) ∧
    (u.faulted = false ∧ u.hostTable.valid = true ∧ 1 ≤ u.hostTb.toNat ∧ u.hostTb.toNat ≤ 16 ∧
      buildTable u.params.emptyTreeAccept u.hostTb.toNat u.hostLengths = .ok u.hostTable.leaves ∧
      codeLengths u.hostLengths ∧ kraft 16 u.hostLengths = 65536 ∧ u.hostTb.toNat < u.hostLengths.getD 2 0 ∧
      framesPresent u u.hostTb.toNat ∧ ¬framesPresent u 32 ∧
      streamBits u u.hostTb.toNat
        = (bitsOf (u.hostLengths.getD 2 0) (canonicalCode u.hostLengths 2)).take u.hostTb.toNat) := by decide +kernel

theorem test_witness_ZeroLengthsDoNotMatter : ∃ leaves, buildTable false 2 [2, 1, 2] = .ok leaves :=
  ⟨_, rfl⟩

/-- One bit; 27 bits; the chunk headers and offsets that end with STORE; raw lengths that end with STORE, and with a
missing frame at the first, at an inner and at the last length. -/
theorem test_witness_HeaderElementsFetched :
    framesPresent (atBit (loaded [1, 2]) 0 15) 1 ∧ framesPresent (atBit (loaded [1, 2, 3, 4]) 0 5) 27 ∧
    ((loaded [0xFF, 0, 1, 0, 2]).byteOff + 5 ≤ (loaded [0xFF, 0, 1, 0, 2]).storeLen.toNat ∧
      (loaded [0xFF, 0, 1, 0, 2]).storeByte 0 = 0xFF) ∧
    ((loaded [0xFE, 0]).byteOff + 2 ≤ (loaded [0xFE, 0]).storeLen.toNat ∧ (loaded [0xFE, 0]).storeByte 0 ≠ 0xFF) ∧
    (loaded [1, 2, 3, 4, 5, 6, 7, 8, 9, 10, 11, 12]).byteOff + 12
      ≤ (loaded [1, 2, 3, 4, 5, 6, 7, 8, 9, 10, 11, 12]).storeLen.toNat ∧
    framesPresent (atBit (loaded [1, 2, 3, 4]) 0 8) 24 ∧
    framesPresent (loaded [1, 2, 3, 4, 5, 6, 7, 8, 9, 10]) 80 ∧
    (framesPresent (loaded [1]) (3 * 0) ∧ ¬framesPresent (loaded [1]) (3 * (0 + 1))) ∧
    (framesPresent (loaded [1, 2]) (3 * 5) ∧ ¬framesPresent (loaded [1, 2]) (3 * (5 + 1))) ∧
    (framesPresent (atBit (loaded [1, 2, 3, 4]) 0 9) (3 * 7) ∧
      ¬framesPresent (atBit (loaded [1, 2, 3, 4]) 0 9) (3 * (7 + 1))) ∧
    (framesPresent (atBit (loaded [1, 2, 3, 4, 5, 6, 7, 8, 9, 10]) 0 1) (4 * 19) ∧
      ¬framesPresent (atBit (loaded [1, 2, 3, 4, 5, 6, 7, 8, 9, 10]) 0 1) (4 * (19 + 1))) := by decide +kernel

/-- `11`, `1`, `10` and 32 bits more: PT.SAME over five entries. -/
def sameAhead : State := withPretree (loaded [0x00, 0xF0, 0, 0, 0, 0])

/-- The item fits with five entries left, and passes the end with four. -/
theorem test_witness_HeaderElementsFetched_items :
    decode (.element .pretreeItem [.sym .pretree 19, .raw 1 1, .sym .pretree 2]) = .ok (.ptSame 1 2) ∧
    fieldsAhead sameAhead [.sym .pretree 19, .raw 1 1, .sym .pretree 2] ∧
    251 + ((1 : BitVec 1).toNat + 4) ≤ sameAhead.tmp.last ∧
    fieldsAhead sameAhead [.sym .pretree 19, .raw 1 1] ∧ sameAhead.tmp.last < 252 + ((1 : BitVec 1).toNat + 4) := by
  have h19 : treeReady sameAhead .pretree ∧ (sameAhead.treeLengths .pretree).getD 19 0 ≠ 0 :=
    ⟨⟨⟨rfl, by decide +kernel⟩, by decide +kernel, by decide +kernel⟩, by decide +kernel⟩
  refine ⟨by decide, ⟨by decide +kernel, by decide +kernel, fun x v h => ?_⟩, by decide,
    ⟨by decide +kernel, by decide +kernel, fun x v h => ?_⟩, by decide⟩
  · simp only [List.mem_cons, Field.sym.injEq, reduceCtorEq, List.not_mem_nil, or_false, false_or] at h
    rcases h with ⟨rfl, rfl⟩ | ⟨rfl, rfl⟩
    · exact h19
    · exact ⟨h19.1, by decide +kernel⟩
  · simp only [List.mem_cons, Field.sym.injEq, reduceCtorEq, List.not_mem_nil, or_false] at h
    obtain ⟨rfl, rfl⟩ := h
    exact h19

/-- Lengths that make a tree, and lengths that do not. -/
theorem test_witness_TreeDefinitions :
    State.reset.faulted = false ∧ buildOutcome false 7 [1, 1, 0, 0, 0, 0, 0, 0] = none ∧
    buildOutcome false 7 [1, 0, 0, 0, 0, 0, 0, 0] = some .buildIncomplete ∧
    buildOutcome false 6 [1, 1, 1, 0, 0, 0, 0, 0, 0, 0, 0, 0, 0, 0, 0, 0, 0, 0, 0, 0] = some .buildOverrun := by
  decide +kernel

/-- Four entries left at the end of the main lengths: every clause has a run that fits and one that does not. -/
theorem test_witness_PretreeItems :
    let s : State := { State.reset with tmp := { array := .main, idx := 508, last := 512 } }
    let u : State := { State.reset with tmp := { array := .length, idx := 225, last := 249 } }
    (s.faulted = false ∧ s.tmp.idx < s.tmp.last ∧ s.tmp.last ≤ 512) ∧ (u.tmp.idx < u.tmp.last ∧ u.tmp.last ≤ 249) ∧
    (16 : BitVec 5).toNat ≤ 16 ∧ ((0 : BitVec 4).toNat + 4 ≤ s.tmp.last - s.tmp.idx) ∧
    ¬((1 : BitVec 4).toNat + 4 ≤ s.tmp.last - s.tmp.idx) ∧ ((4 : BitVec 5).toNat + 20 ≤ u.tmp.last - u.tmp.idx) ∧
    ¬((5 : BitVec 5).toNat + 20 ≤ u.tmp.last - u.tmp.idx) ∧ s.tmp.last - s.tmp.idx < (1 : BitVec 1).toNat + 4 ∧
    ¬(s.tmp.last - s.tmp.idx < (0 : BitVec 1).toNat + 4) ∧ 16 < (17 : BitVec 5).toNat := by decide +kernel

/-- The match of `test_bits_verbatim_match`, with 32 bits more in STORE. -/
def matchAhead : State := withTrees (loaded [0x93, 0x93, 0x00, 0x40, 0, 0, 0, 0]) 1

theorem test_witness_MainElementsFetched :
    decode (.element (.mainItem (matchAhead.blockType == 2) matchAhead.params.alignedExtra3)
      [.sym .main 0x127, .sym .length 31, .raw 1 1]) = .ok (.matchVS4 7 (some 31) 1) ∧
    fieldsAhead matchAhead [.sym .main 0x127, .sym .length 31, .raw 1 1] := by
  refine ⟨by decide +kernel, by decide +kernel, by decide +kernel, fun x v h => ?_⟩
  simp only [List.mem_cons, Field.sym.injEq, reduceCtorEq, List.not_mem_nil, or_false] at h
  rcases h with ⟨rfl, rfl⟩ | ⟨rfl, rfl⟩
  · exact ⟨⟨⟨rfl, by decide +kernel⟩, by decide +kernel, by decide +kernel⟩, by decide +kernel⟩
  · exact ⟨⟨⟨rfl, by decide +kernel⟩, by decide +kernel, by decide +kernel⟩, by decide +kernel⟩

/-- The last cell of the window. -/
theorem test_witness_LiteralsAndMatchFields :
    let s : State := { withTrees State.reset 1 with windowPosn := 65535 }
    s.faulted = false ∧ 0 < s.tmp.run ∧ s.windowPosn.toNat < 65536 := by decide +kernel

/-- A run of 2 bytes at the end of the window, its source cell written. -/
def copyAtEnd : State :=
  { withTrees State.reset 1 with window := [(65533, 7)], windowPosn := 65534, tmp := { run := 2 } }

/-- A repeated offset; the offset 1 of slot 3; the whole window as offset, with a length that reaches its end. -/
theorem test_witness_VerbatimMatchesCopy :
    (Instr.wellFormed (.matchS0 0 none) = true ∧ matchForm (.matchS0 0 none) = some (2, .repeated 0) ∧
      (∀ h fields, encode (.matchS0 0 none) ≠ .element (.mainItem true h) fields) ∧ copyAtEnd.faulted = false ∧
      CopyReady copyAtEnd 2 (offsetOf copyAtEnd (.repeated 0))) ∧
    (matchForm (.matchS3 0 none) = some (2, .coded 1) ∧ CopyReady copyAtEnd 2 (offsetOf copyAtEnd (.coded 1))) :=
  ⟨⟨by decide, by decide, fun _ _ h => by simp [encode, matchCode] at h, by decide,
      ⟨by decide, by decide, by decide⟩⟩,
    by decide, ⟨by decide, by decide, by decide⟩⟩

/-- Offset 14 + 6 of slot 8, both cells written. -/
theorem test_witness_AlignedMatchesCopy :
    let s : State := { copyAtEnd with window := [(65514, 1), (65515, 2)] }
    Instr.wellFormed (.matchAS8 0 none none 6) = true ∧ matchForm (.matchAS8 0 none none 6) = some (2, .coded 20) ∧
    (∃ h fields, encode (.matchAS8 0 none none 6) = .element (.mainItem true h) fields) ∧ s.faulted = false ∧
    CopyReady s 2 (offsetOf s (.coded 20)) :=
  ⟨by decide, by decide, ⟨_, _, rfl⟩, by decide, ⟨by decide, by decide, by decide⟩⟩

/-- Offset 0 and 65537 from the cache, a length one past the run, a first and a second source cell unwritten. -/
theorem test_witness_MatchFaults :
    let s : State := { copyAtEnd with rep0 := 0, rep1 := 65537, tmp := { run := 1 } }
    let u : State := { copyAtEnd with windowPosn := 2, window := [(0, 7)] }
    (Instr.wellFormed (.matchS0 0 none) = true ∧ matchForm (.matchS0 0 none) = some (2, .repeated 0) ∧
      s.faulted = false ∧ offsetOf s (.repeated 0) = 0 ∧ 65536 < offsetOf s (.repeated 1)) ∧
    (matchForm (.matchS3 0 none) = some (2, .coded 1) ∧ s.tmp.run < 2) ∧
    (2 ≤ u.tmp.run ∧ u.windowPosn.toNat + 2 ≤ 65536 ∧ u.windowByte (sourceCell (u.windowPosn.toNat + 0) 1) = none) ∧
    (matchForm (.matchVS4 0 none 0) = some (2, .coded 2) ∧ (1 < 2 ∧ 1 < offsetOf u (.coded 2)) ∧
      (∀ j < 1, u.windowByte (sourceCell (u.windowPosn.toNat + j) 2) ≠ none) ∧
      u.windowByte (sourceCell (u.windowPosn.toNat + 1) 2) = none) := by decide +kernel

/-- A run past the chunk, a run past STORE, and one that both just hold. -/
theorem test_witness_UncompressedRuns :
    let s (bs run : Nat) : State := { loaded [1, 2] with tmp := { bs := bs, run := run } }
    ((s 1 2).faulted = false ∧ (s 1 2).windowPosn.toNat + (s 1 2).tmp.run ≤ 65536 ∧
      (s 1 2).tmp.chunkStart + (s 1 2).tmp.bs < (s 1 2).byteOff + (s 1 2).tmp.run) ∧
    (¬(s 3 3).tmp.chunkStart + (s 3 3).tmp.bs < (s 3 3).byteOff + (s 3 3).tmp.run ∧
      (s 3 3).storeLen.toNat < (s 3 3).byteOff + (s 3 3).tmp.run) ∧
    (¬(s 2 2).tmp.chunkStart + (s 2 2).tmp.bs < (s 2 2).byteOff + (s 2 2).tmp.run ∧
      ¬(s 2 2).storeLen.toNat < (s 2 2).byteOff + (s 2 2).tmp.run) := by decide +kernel

/-- An empty frame; a frame that uses up the block, the chunk, STORE and the window. -/
theorem test_witness_DecompressCopiesUncompressedFrame :
    let s : State :=
      { loaded [1, 2] with headerRead := true, blockType := 3, blockRemaining := 2, windowPosn := 65534 }
    let fs : U32 := 2
    (s.faulted = false ∧ s.headerRead = true ∧ (0 : U32).toNat ≤ 65536 ∧ s.bitOff = 0) ∧
    (0 < fs.toNat ∧ fs.toNat ≤ 65536 ∧ s.blockType = 3 ∧ fs.toNat ≤ s.blockRemaining.toNat ∧ s.bitOff = 0 ∧
      s.byteOff + fs.toNat ≤ s.storeLen.toNat ∧ s.windowPosn.toNat % 65536 + fs.toNat ≤ 65536) := by decide +kernel

/-- The literals 0x48, 0x49: `001001000001001001`, frames 0x2412, 0x4000. -/
def literalsAhead : State := withTrees (loaded [0x12, 0x24, 0x00, 0x40, 0, 0, 0, 0]) 1

theorem test_witness_DecompressDecodesLiterals :
    (literalsAhead.faulted = false ∧ literalsAhead.headerRead = true ∧ literalsAhead.blockType = 1 ∧
      (2 : U32).toNat = ([0x48, 0x49] : List Byte).length ∧ (2 : U32).toNat ≤ literalsAhead.blockRemaining.toNat ∧
      literalsAhead.windowPosn.toNat % 65536 + (2 : U32).toNat ≤ 65536) ∧
    fieldsAhead literalsAhead (([0x48, 0x49] : List Byte).map fun c => Field.sym .main c.toNat) := by
  refine ⟨by decide +kernel, by decide +kernel, by decide +kernel, fun x v h => ?_⟩
  have hx : x = .main ∧ (v = 0x48 ∨ v = 0x49) := by
    simp only [List.map_cons, List.map_nil, List.mem_cons, Field.sym.injEq, List.not_mem_nil, or_false] at h
    rcases h with ⟨rfl, rfl⟩ | ⟨rfl, rfl⟩
    · exact ⟨rfl, .inl rfl⟩
    · exact ⟨rfl, .inr rfl⟩
  obtain ⟨rfl, rfl | rfl⟩ := hx
  · exact ⟨⟨⟨rfl, by decide +kernel⟩, by decide +kernel, by decide +kernel⟩, by decide +kernel⟩
  · exact ⟨⟨⟨rfl, by decide +kernel⟩, by decide +kernel, by decide +kernel⟩, by decide +kernel⟩

/-! ## Elements inside a command -/

/-- The element at the cursors and the state its meaning leads to, if there is no fault. -/
def runOne (k : ElemKind) (s : State) : Option (Instr × State) :=
  match fetchElement k s with
  | .error _ _ => none
  | .ok i u =>
    match exec i u with
    | .next t => if t.faulted then none else some (i, t)
    | .fault _ => none
    | .refused _ => none

theorem elementRun_of_runOne {k : ElemKind} {s t : State} {i : Instr} (h : runOne k s = some (i, t)) :
    ElementRun k s i t := by
  unfold runOne at h
  split at h
  · cases h
  · next j u hu =>
    split at h
    · next v hv =>
      split at h
      · cases h
      · next hf =>
        cases h
        exact ⟨u, hu, hv, by simpa using hf⟩
    · cases h
    · cases h

/-- The main-tree elements of a run of at most `n` of them, run one after the other. -/
def runMain : Nat → State → Option State
  | 0, s => if s.tmp.run = 0 then some s else none
  | n + 1, s => if s.tmp.run = 0 then some s else (runOne .mainItem s).bind fun r => runMain n r.2

theorem mainItemsRun_of_runMain {n : Nat} {s t : State} (h : runMain n s = some t) : MainItemsRun s t := by
  induction n generalizing s with
  | zero =>
    simp only [runMain, Option.ite_none_right_eq_some, Option.some.injEq] at h
    obtain ⟨h0, rfl⟩ := h
    exact .done _ h0
  | succ n ih =>
    unfold runMain at h
    split at h
    · next h0 => cases h; exact .done _ h0
    · next h0 =>
      obtain ⟨⟨i, u⟩, hu, ht⟩ := Option.bind_eq_some_iff.1 h
      exact .item _ _ _ i (Nat.pos_of_ne_zero h0) (elementRun_of_runOne hu) (ih ht)

/-- The store of vector F4 of 95_test_vectors.md: the session bit, then a Verbatim block of three bytes with its trees. -/
def verbatimBlock : State :=
  { atBit (loaded [0x00, 0x10, 0x30, 0x00, 0x00, 0x00, 0x00, 0x00, 0x00, 0x00, 0x20, 0x00, 0x07, 0x21, 0xA7, 0xDA, 0x7F,
      0xDF, 0x00, 0x00, 0x00, 0x00, 0x00, 0x00, 0x00, 0x00, 0x01, 0x01, 0xFF, 0x07, 0xFF, 0xFF, 0x00, 0xE0, 0x00, 0x00,
      0x00, 0x00, 0x00, 0x00, 0x02, 0x02, 0xFF, 0x07, 0xFE, 0xFF, 0x00, 0xF6, 0x00, 0x00, 0x00, 0x00]) 0 1 with
    headerRead := true }

/-- Does a procedure return, to a state with some property? -/
def returns (r : EStateM.Result Stop State Unit) (f : State → Bool) : Bool :=
  match r with
  | .ok _ t => f t
  | .error _ _ => false

/-- A header of each type that goes on; `test_witness_DecompressRunsItsElements` has one with its trees. -/
theorem test_witness_BlockHeadersReadTheirTrees :
    (runOne .blockHeader verbatimBlock).map (·.1) = some (.blockVerbatim 3) ∧
    (runOne .blockHeader (loaded [0x00, 0x40, 0xC0, 0x00])).map (·.1) = some (.blockAligned 6) ∧
    (runOne .blockHeader (loaded [0x00, 0x60, 0xC0, 0x00])).map (·.1) = some (.blockUncompressed 6) := by
  decide +kernel

/-- Two literals in a block that goes on; the first byte of a block whose header comes next. -/
theorem test_witness_DecompressRunsItsElements :
    (literalsAhead.faulted = false ∧ literalsAhead.blockRemaining ≠ 0 ∧
      ∃ t, MainItemsRun (runBegun (frameBegun literalsAhead 2 2) 2) t ∧ t.byteOff + 2 < 2 ^ 32) ∧
    (verbatimBlock.faulted = false ∧ verbatimBlock.blockRemaining = 0 ∧
      ∃ h t, readBlockHeader (frameBegun verbatimBlock 1 52) = .ok () h ∧ h.blockType = 1 ∧
        1 ≤ h.blockRemaining.toNat ∧ MainItemsRun (runBegun h 1) t ∧ t.byteOff + 2 < 2 ^ 32) := by
  refine ⟨⟨by decide, by decide, ?_⟩, by decide, by decide, ?_⟩
  · cases e : runMain 2 (runBegun (frameBegun literalsAhead 2 2) 2) with
    | none => exact absurd e (by decide +kernel)
    | some t =>
      have h : (runMain 2 (runBegun (frameBegun literalsAhead 2 2) 2)).all (fun t => t.byteOff + 2 < 2 ^ 32) = true := by
        decide +kernel
      rw [e] at h
      exact ⟨t, mainItemsRun_of_runMain e, by simpa using h⟩
  · have h1 : returns (readBlockHeader (frameBegun verbatimBlock 1 52)) (fun h => h.blockType == 1 &&
        decide (1 ≤ h.blockRemaining.toNat) &&
        (runMain 1 (runBegun h 1)).any (fun t => decide (t.byteOff + 2 < 2 ^ 32))) = true := by decide +kernel
    cases e : readBlockHeader (frameBegun verbatimBlock 1 52) with
    | error _ _ => rw [e] at h1; cases h1
    | ok _ h =>
      rw [e] at h1
      simp only [returns, Bool.and_eq_true, beq_iff_eq, decide_eq_true_eq, Option.any_eq_true] at h1
      obtain ⟨⟨ht, hb⟩, t, hm, hp⟩ := h1
      exact ⟨h, t, rfl, ht, hb, mainItemsRun_of_runMain (Option.mem_def.1 hm), hp⟩

theorem test_witness_DecompressReturnsTheWindowSlice :
    ∃ t, exec (.lzxDecompress 2 2) literalsAhead = .next t ∧ t.response = some (.ok (.bytes [0x48, 0x49])) :=
  next_of_responds (by decide +kernel)

/-- Operands of 65537; the transform bit; block types 0 and 7; a run past the window's end; a run past the chunk. -/
theorem test_witness_DecompressHeaderFaults :
    let s : State := { State.reset with headerRead := true, blockType := 3, blockRemaining := 2, windowPosn := 65535 }
    65536 < (65537 : U32).toNat ∧
    ((loaded [0x00, 0x80]).headerRead = false ∧ framesPresent (loaded [0x00, 0x80]) 1 ∧
      streamBit (loaded [0x00, 0x80]) 0 = true) ∧
    ((loaded [0, 0, 0, 0]).blockRemaining = 0 ∧ framesPresent (loaded [0, 0, 0, 0]) 27 ∧
      ofBits (streamBits (loaded [0, 0, 0, 0]) 3) = 0 ∧ ofBits (streamBits (loaded [0, 0xE0, 0, 0]) 3) = 7) ∧
    (s.faulted = false ∧ s.headerRead = true ∧ s.blockRemaining ≠ 0 ∧
      65536 < s.windowPosn.toNat % 65536 + min s.blockRemaining.toNat (2 : U32).toNat) ∧
    (s.windowPosn.toNat % 65536 + min s.blockRemaining.toNat (1 : U32).toNat ≤ 65536 ∧ s.blockType = 3 ∧
      (0 : U32).toNat < min s.blockRemaining.toNat (1 : U32).toNat) := by decide +kernel

/-- Headers with frame size 0 and with block size 0, and the implicit header of block size 0. -/
theorem test_witness_FramerLoopEnds :
    State.reset.faulted = false ∧ (1 : U32) ≠ 0 ∧
    ((loaded [0xFF, 0, 0, 1, 0]).byteOff + 5 ≤ (loaded [0xFF, 0, 0, 1, 0]).storeLen.toNat ∧
      (loaded [0xFF, 0, 0, 1, 0]).storeByte 0 = 0xFF ∧ (loaded [0xFF, 0, 0, 1, 0]).storeByte 1 = 0 ∧
      (loaded [0xFF, 0, 0, 1, 0]).storeByte 2 = 0) ∧
    ((loaded [0xFF, 1, 0, 0, 0]).storeByte 3 = 0 ∧ (loaded [0xFF, 1, 0, 0, 0]).storeByte 4 = 0) ∧
    ((loaded [0, 0]).byteOff + 2 ≤ (loaded [0, 0]).storeLen.toNat ∧ (loaded [0, 0]).storeByte 0 = 0 ∧
      (loaded [0, 0]).storeByte 1 = 0) := by decide +kernel

theorem test_witness_FramerOutputHasTheDeclaredLength :
    responds (exec (.frmRun 0 0) State.reset) (.ok (.bytes [])) = true ∧
    responds (exec (.frmRun 0 1) State.reset) (.fault .outputLengthMismatch) = true ∧ State.reset.faulted = false := by
  decide +kernel

/-- The container of the one byte 0x41, offsets 1, 2, 3: header FF 0001 0011, frames 0x3000, 0x0010, the offsets. -/
def container : State :=
  loaded [0xFF, 0x00, 0x01, 0x00, 0x11, 0x00, 0x30, 0x10, 0x00, 1, 0, 0, 0, 2, 0, 0, 0, 3, 0, 0, 0, 0x41]

/-- The container is one chunk, which uses it up. -/
theorem test_witness_FramerOutputHasTheDeclaredLength_chunks :
    container.faulted = false ∧ ∃ v, ChunksRun 22 (framerBegun container) v [0x41] := by
  refine ⟨by decide, ?_⟩
  cases e : runOne .chunkHeader (framerBegun container) with
  | none => exact absurd e (by decide +kernel)
  | some r =>
    obtain ⟨i, t⟩ := r
    have h : (runOne .chunkHeader (framerBegun container)).any (fun r =>
        decide (r.2.tmp.fs ≠ 0) && decide (r.2.tmp.bs ≠ 0) &&
        match decompress r.2.tmp.fs r.2.tmp.bs r.2 with
        | .ok out u => out == [0x41] && decide (22 ≤ (BitVec.ofNat 33 (u.frmConsumed.toNat + r.2.tmp.bs)).toNat)
        | .error _ _ => false) = true := by decide +kernel
    rw [e] at h
    simp only [Option.any_some, Bool.and_eq_true, decide_eq_true_eq] at h
    obtain ⟨⟨h1, h2⟩, h3⟩ := h
    cases e2 : decompress t.tmp.fs t.tmp.bs t with
    | error _ _ => rw [e2] at h3; cases h3
    | ok out u =>
      rw [e2] at h3
      simp only [Bool.and_eq_true, beq_iff_eq, decide_eq_true_eq] at h3
      obtain ⟨rfl, h4⟩ := h3
      exact ⟨_, .chunk _ t u _ i [0x41] [] (by decide) (elementRun_of_runOne e) h1 h2 e2 (.done _ h4)⟩

theorem test_witness_FramedUncompressedBlockDecodes :
    (container.faulted = false ∧ container.headerRead = false ∧ container.blockRemaining = 0 ∧
      container.windowPosn = 0 ∧ container.bitOffset = 0) ∧
    container.byteOff + (21 + 1) ≤ container.storeLen.toNat ∧
    bytesAhead container (21 + 1) = [0xFF] ++ [0, 1] ++ [0, 17] ++
      packFrames 2 ([false] ++ [false, true, true] ++ bitsOf 24 1) ++ [1, 0, 0, 0] ++ [2, 0, 0, 0] ++ [3, 0, 0, 0] ++
      [0x41] ∧
    responds (exec (.frmRun 22 1) container) (.ok (.bytes [0x41])) = true := by decide +kernel

theorem test_witness_EngineResetStartsASession : literalsAhead.faulted = false := by decide

theorem test_witness_HeaderElements : literalsAhead.faulted = false := by decide

end Sys2Proof.Tests
end

/-!
PROOFS of 00_scope.md. The fetch yields bitstream elements only, so the element that the engine fetches and runs has
its meaning by `exec` (R15, R17): the facts about the decoder, about the fetch, and O7.
-/

namespace Sys2Proof

/-! ## The decoder yields elements from elements' fields -/

/-- An element of the bitstream, as against a command of the host: its code is a list of fields. -/
def Instr.IsElement (i : Instr) : Prop :=
  ∃ fmt fields, encode i = .element fmt fields

theorem isElement_of_map {α : Type} {x : Except DecodeError α} {f : α → Instr} {i : Instr}
    (hf : ∀ a, (f a).IsElement) (h : x.map f = .ok i) : i.IsElement := by
  cases x with
  | error e => cases h
  | ok a =>
    cases h
    exact hf a

theorem isElement_of_chunkInstr {fields : List Field} {i : Instr} (h : chunkInstr fields = .ok i) : i.IsElement := by
  unfold chunkInstr at h
  split at h
  all_goals
    split at h
    · cases h
    · split at h <;> cases h
      exact ⟨_, _, rfl⟩

theorem blockInstr_isElement (type : Nat) (size : BitVec 24) : (blockInstr type size).IsElement := by
  unfold blockInstr
  split_ifs <;> exact ⟨_, _, rfl⟩

theorem pretreeInstr_isElement (sym : Nat) (vs : List Nat) : (pretreeInstr sym vs).IsElement := by
  unfold pretreeInstr
  split_ifs <;> exact ⟨_, _, rfl⟩

section
variable {slot : Nat} {lh : BitVec 3} {footer : Option (BitVec 8)} {i : Instr}

theorem isElement_of_verbatimMatch {v : Nat} (h : verbatimMatch slot lh footer v = some i) : i.IsElement := by
  unfold verbatimMatch at h
  split at h <;> cases h
  all_goals exact ⟨_, _, rfl⟩

theorem isElement_of_alignedMatch {xs : List Nat} (h : alignedMatch slot lh footer xs = some i) : i.IsElement := by
  unfold alignedMatch at h
  split at h <;> cases h
  all_goals exact ⟨_, _, rfl⟩

/-- The slots 0 to 3 are the repeated offsets and slot 3; the rest depends on the block type. -/
theorem isElement_of_slotMatch {aligned : Bool} {xs : List Nat} (h : slotMatch aligned slot lh footer xs = some i) :
    i.IsElement := by
  unfold slotMatch at h
  split at h
  case h_5 =>
    split at h
    · exact isElement_of_alignedMatch h
    · exact isElement_of_verbatimMatch h
  all_goals
    cases h
    exact ⟨_, _, rfl⟩

end

theorem isElement_of_mainInstr {aligned : Bool} {m : Nat} {vs : List Nat} {i : Instr}
    (h : mainInstr aligned m vs = some i) : i.IsElement := by
  unfold mainInstr at h
  split_ifs at h
  · cases h
    exact ⟨_, _, rfl⟩
  · exact isElement_of_slotMatch h
  · exact isElement_of_slotMatch h

theorem isElement_of_decodePretreeItem {fields : List Field} {i : Instr}
    (h : decodeElement .pretreeItem fields = .ok i) : i.IsElement := by
  simp only [decodeElement] at h
  split at h
  · split at h
    · cases h
    · exact isElement_of_map (pretreeInstr_isElement _) h
  · cases h
  · cases h

theorem isElement_of_decodeMainItem {aligned : Bool} {mode : Extra3Mode} {fields : List Field} {i : Instr}
    (h : decodeElement (.mainItem aligned mode) fields = .ok i) : i.IsElement := by
  simp only [decodeElement] at h
  split at h
  · split at h
    · cases h
    · split at h
      · cases h
      · split at h
        · next hm =>
          cases h
          exact isElement_of_mainInstr hm
        · cases h
  · cases h
  · cases h

/-- Whatever the decoder accepts as an element is one: no command comes out of the stream. -/
theorem isElement_of_decodeElement {fmt : Format} {fields : List Field} {i : Instr}
    (h : decodeElement fmt fields = .ok i) : i.IsElement := by
  cases fmt with
  | chunkHeader => exact isElement_of_chunkInstr h
  | blockHeader => exact isElement_of_map (fun _ => blockInstr_isElement _ _) h
  | pretreeItem => exact isElement_of_decodePretreeItem h
  | mainItem aligned mode => exact isElement_of_decodeMainItem h
  | transform | alignedLengths | pretree | lengthFooter | alignedSymbol | align | uncompReps | uncompBytes =>
    exact isElement_of_map (fun _ => ⟨_, _, rfl⟩) h

end Sys2Proof

namespace Sys2Proof.Machine

/-! ## The fetch yields what the decoder accepts -/

/-- Each instruction the procedure returns is what the decoder gives for some element's fields. -/
def Decodes (p : Proc Instr) : Prop :=
  ∀ s i t, p s = .ok i t → ∃ fmt fields, decode (.element fmt fields) = .ok i

/-- What a sequence returns is returned by its last part. -/
theorem Decodes.bind {α : Type} {p : Proc α} {f : α → Proc Instr} (hf : ∀ a, Decodes (f a)) : Decodes (p >>= f) := by
  intro s i t h
  obtain ⟨a, u, -, ha⟩ := Proc.bind_eq_ok.1 h
  exact hf a u i t ha

theorem decodes_decoded (fmt : Format) (fields : List Field) : Decodes (decoded fmt fields) := by
  intro s i t h
  cases hd : decode (.element fmt fields) with
  | error e =>
    rw [decoded, hd] at h
    cases h
  | ok j =>
    rw [decoded, hd] at h
    cases h
    exact ⟨fmt, fields, hd⟩

theorem decodes_fetchChunkHeader : Decodes fetchChunkHeader := by
  refine Decodes.bind fun c => ?_
  split
  · exact .bind fun _ => .bind fun _ => decodes_decoded _ _
  · exact .bind fun _ => .bind fun _ => .bind fun _ => decodes_decoded _ _

theorem decodes_fetchPretreeItem : Decodes fetchPretreeItem := by
  refine Decodes.bind fun sym => ?_
  split
  · exact .bind fun _ => .bind fun _ => .bind fun _ => decodes_decoded _ _
  · exact .bind fun _ => decodes_decoded _ _

/-- Every fetch ends in the decoder. -/
theorem decodes_fetchElement (k : ElemKind) : Decodes (fetchElement k) := by
  cases k with
  | chunkHeader => exact decodes_fetchChunkHeader
  | pretreeItem => exact decodes_fetchPretreeItem
  | align => exact decodes_decoded .align []
  | uncompBytes => exact decodes_decoded .uncompBytes []
  | transform | lengthFooter | alignedSymbol | alignedLengths | pretree =>
    exact .bind fun _ => decodes_decoded _ _
  | blockHeader => exact .bind fun _ => .bind fun _ => .bind fun _ => .bind fun _ => decodes_decoded _ _
  | mainItem => exact .bind fun _ => .bind fun _ => .bind fun _ => decodes_decoded _ _
  | uncompReps =>
    exact .bind fun _ => .bind fun _ => .bind fun _ => .bind fun _ => .bind fun _ => .bind fun _ => decodes_decoded _ _

theorem fetchElement_isElement {k : ElemKind} {s t : State} {i : Instr} (h : fetchElement k s = .ok i t) :
    i.IsElement := by
  obtain ⟨fmt, fields, hd⟩ := decodes_fetchElement k s i t h
  exact isElement_of_decodeElement hd

/-- The fetch does not touch STATUS. -/
theorem fetchElement_faulted {k : ElemKind} {s t : State} {i : Instr} (h : fetchElement k s = .ok i t) :
    t.faulted = s.faulted :=
  ((framed_fetchElement k).ok h).1.faulted

/-! ## The step, and an element inside a command -/

theorem step_of_command {s : State} {c : Command} {rest : List Command} (h : s.pending = c :: rest) :
    step s = exec (decodeCommand c) { s with pending := rest } := by
  rw [step, h]

theorem step_of_idle {s : State} (h : s.pending = []) : step s = .next s := by
  rw [step, h]

/-- An element's outcome is that of the run of its procedure. -/
theorem element_congr {p q : Proc Unit} {s t : State} (hs : s.faulted = false) (ht : t.faulted = false)
    (h : p s = q t) : element p s = element q t := by
  rw [element, element, if_neg (by simp [hs]), if_neg (by simp [ht]), h]

/-- What is fetched has its meaning, from the state the fetch has left. -/
theorem element_runNext_of_fetched {k : ElemKind} {s t : State} {i : Instr} (hs : s.faulted = false)
    (h : fetchElement k s = .ok i t) : element (runNext k) s = exec i t := by
  obtain ⟨fmt, fields, he⟩ := fetchElement_isElement h
  have ht : t.faulted = false := (fetchElement_faulted h).trans hs
  have hrun : runNext k s = runElement i t := Proc.bind_of_ok h
  rw [exec_element he, element_congr hs ht hrun]

/-- A fault of the fetch is the fault of the whole (60_exceptions.md R177). -/
theorem element_runNext_of_fetch_raise {k : ElemKind} {s t : State} {c : Cause} (hs : s.faulted = false)
    (h : fetchElement k s = .error (.raise c) t) : element (runNext k) s = .next (faultEntry c t) :=
  element_of_raise hs (Proc.bind_of_error h)

/-- `faulting` is the model's `faultEntry` with the opcode of the command in progress. -/
theorem faultEntry_eq_faulting (c : Cause) (s : State) : faultEntry c s = Safety.faulting s.tmp.opcode c s := rfl

/-- Settles O7: by cases on the queue; for an element, by the outcome of its fetch. -/
theorem stepRunsTheDecodedInstruction : Obligations.StepRunsTheDecodedInstruction := by
  intro s
  refine ⟨?_, step_of_idle, fun hs k => ⟨fun i t h => element_runNext_of_fetched hs h, fun c t h => ?_⟩⟩
  · intro c i rest hpending hdecode
    cases hdecode
    exact step_of_command hpending
  · rw [element_runNext_of_fetch_raise hs h, faultEntry_eq_faulting]

end Sys2Proof.Machine

/-!
PROOFS of 10_state.md. First what every command keeps: one table of the procedures that the commands run, each with
what it does to the invariant and to the cursors. From it the invariant (O14, O15) and the cursors within STORE (O20);
then the observation port (O32, O33) and the ROM tables (O5).
-/

namespace Sys2Proof.Machine

open Sys2Proof.Safety

/-! ## Relations that a command keeps -/

/-- From any state, the procedure leaves a state that `R` relates to it. -/
abbrev Leads {α : Type} (R : State → State → Prop) (p : Proc α) : Prop := Keeps (fun _ => True) R p

theorem Leads.of_left {α : Type} {R : State → State → Prop} {p : Proc α} (h : ∀ s, R s (Proc.left (p s))) :
    Leads R p :=
  fun s _ => ⟨trivial, h s⟩

theorem Leads.bind_get {β : Type} {R : State → State → Prop} {f : State → Proc β} (h : ∀ s, Leads R (f s)) :
    Leads R (MonadState.get >>= f) :=
  Leads.of_left fun s => (h s s trivial).2

/-- What a relation needs, to pass from a command's procedure to the command: it does not see the begin of a command, its
answer, its refusal or the entry of its fault. -/
structure Commandwise (R : State → State → Prop) : Prop where
  preorder : Preorder R
  begins : ∀ s op, R s (s.begin op)
  answers : ∀ s r, R s (s.answer r)
  refuses : ∀ s : State, R s s.refuse
  faults : ∀ s c, R s (faultEntry c s)

/-- The command `c` runs the procedure `p`, as a command or as an observation. -/
def Runs (c : Command) (p : Proc Result) : Prop :=
  (∀ s, exec (decodeCommand c) s = command c.opcode p s) ∨ ∀ s, exec (decodeCommand c) s = observation c.opcode p s

section
variable {c : Command} {p : Proc Result} {s t : State}

/-- All the next states of what runs a procedure. -/
theorem Runs.next_cases (hc : Runs c p) (h : exec (decodeCommand c) s = .next t) :
    t = s.refuse ∨ (∃ r u, p (s.begin c.opcode) = .ok r u ∧ t = u.answer (.ok r)) ∨
      ∃ k u, p (s.begin c.opcode) = .error (.raise k) u ∧ t = faultEntry k u := by
  rcases hc with hc | hc <;> rw [hc] at h
  · rcases command_eq_next h with ⟨-, h⟩ | ⟨-, h⟩ | ⟨-, h⟩
    · exact .inl h
    · exact .inr (.inl h)
    · exact .inr (.inr h)
  · rcases observation_eq_next h with h | ⟨-, h⟩ | ⟨-, h⟩
    · exact .inr (.inl h)
    · exact .inl h
    · exact .inr (.inr h)

theorem Runs.keeps {R : State → State → Prop} (hc : Runs c p) (hR : Commandwise R) (hp : Leads R p)
    (h : exec (decodeCommand c) s = .next t) : R s t := by
  have hbegun := hR.begins s c.opcode
  rcases hc.next_cases h with rfl | ⟨r, u, hu, rfl⟩ | ⟨k, u, hu, rfl⟩
  · exact hR.refuses s
  · exact hR.preorder.trans (hR.preorder.trans hbegun (Keeps.ok hp trivial hu).2) (hR.answers u _)
  · exact hR.preorder.trans (hR.preorder.trans hbegun (Keeps.error hp trivial hu).2) (hR.faults u k)

end

/-! ## The invariant at reset -/

theorem replicate_zero_lens {n : Nat} (i : Fin n) :
    ((Vector.replicate n (0 : BitVec 5))[i]).toNat ≤ maxCodeLen ∧ (Vector.replicate n (0 : BitVec 5))[i] = 0 := by
  simp

theorem invariant_reset : Invariant State.reset where
  store := State.reset_memory_wf.1
  window := State.reset_memory_wf.2
  posn := Nat.zero_le _
  mainLens i := ⟨(replicate_zero_lens i).1, fun _ => (replicate_zero_lens i).2⟩
  lengthLens i := ⟨(replicate_zero_lens i).1, fun _ => (replicate_zero_lens i).2⟩
  hostSize := ⟨Nat.zero_le _, Nat.zero_le _⟩
  hostLens i := (replicate_zero_lens i).1
  pretreeSymbols := symbolsBelow_nil rfl _
  mainSymbols := symbolsBelow_nil rfl _
  lengthSymbols := symbolsBelow_nil rfl _
  alignedSymbols := symbolsBelow_nil rfl _
  hostSymbols := symbolsBelow_nil rfl _
  fault := ⟨rfl, rfl, rfl, rfl, rfl⟩

/-- Settles O14. -/
theorem resetMeetsTheInvariant : Obligations.ResetMeetsTheInvariant := invariant_reset

/-! ## What keeps the invariant -/

/-- The engine's part of the invariant, and the rest where the frame of the engine holds. -/
theorem Kept.invariant {s t : State} (hk : Kept s t) (h : Invariant s) : Invariant t := by
  obtain ⟨hf, he⟩ := hk
  refine { he { h with } with store := ?_, hostSize := ?_, hostLens := ?_, hostSymbols := ?_, fault := ?_ }
  · rw [State.storeWf, hf.store, hf.storeLen]
    exact h.store
  · rw [hf.hostN, hf.hostTb]
    exact h.hostSize
  · rw [hf.hostLen]
    exact h.hostLens
  · rw [hf.hostTable, hf.hostN]
    exact h.hostSymbols
  · rw [faultRecord, hf.faulted, hf.faultClass, hf.faultCause, hf.faultOpcode, hf.faultByteOffset, hf.faultBitOffset]
    exact h.fault

/-- The invariant holds of the second state if it holds of the first. -/
def KeepsInvariant (s t : State) : Prop := Invariant s → Invariant t

/-- The invariant speaks of no field that the begin or the end of a command writes, but for the fault record, which fault
entry makes that of a cause (60_exceptions.md R175). -/
theorem commandwise_keepsInvariant : Commandwise KeepsInvariant where
  preorder := ⟨fun _ => id, fun h k hs => k (h hs)⟩
  begins _ _ h := { h with }
  answers _ _ h := { h with }
  refuses _ h := { h with }
  faults _ c h := { h with fault := ⟨c, rfl, rfl⟩ }

theorem Framed.keepsInvariant {α : Type} {p : Proc α} (h : Framed p) : Leads KeepsInvariant p :=
  Leads.of_left fun s hs => (h.left s).invariant hs

/-! ## The procedures outside the engine's frame -/

/-- LOAD lays STORE out in canonical form (70_reset_and_hazards.md R190). -/
theorem keepsInvariant_doLoad (data : List Byte) : Leads KeepsInvariant (doLoad data) := by
  refine Keeps.ite (fun _ => Keeps.raise commandwise_keepsInvariant.preorder _) fun hlen => ?_
  refine Keeps.bind commandwise_keepsInvariant.preorder (Keeps.update fun s _ => ⟨trivial, fun h => ?_⟩)
    fun _ => Keeps.pure commandwise_keepsInvariant.preorder _
  refine { h with store := ⟨Memory.wf_ofBytes 0 data, fun c hc => ?_⟩ }
  obtain ⟨-, hlt, hne⟩ := Memory.mem_ofBytes hc
  refine ⟨?_, hne⟩
  have hlen : data.length < 4294967296 := Nat.not_le.1 hlen
  change c.1 < (BitVec.ofNat 32 data.length).toNat
  rw [BitVec.toNat_ofNat, Nat.mod_eq_of_lt hlen]
  omega

/-- LZX_RESET gives the engine's fields their reset values (70_reset_and_hazards.md R189). -/
theorem keepsInvariant_doLzxReset : Leads KeepsInvariant doLzxReset := by
  refine Keeps.bind commandwise_keepsInvariant.preorder (Keeps.update fun s _ => ⟨trivial, fun h => ?_⟩)
    fun _ => Keeps.pure commandwise_keepsInvariant.preorder _
  exact { invariant_reset with
    store := h.store, hostSize := h.hostSize, hostLens := h.hostLens, hostSymbols := h.hostSymbols, fault := h.fault }

section
variable (s : State) (n tb : U32) (data : List Byte)

theorem withHost_hostSize (hn : n.toNat ≤ 1024) (htb : tb.toNat ≤ 16) :
    (s.withHost n tb data).hostN.toNat ≤ hostMaxSymbols ∧ (s.withHost n tb data).hostTb.toNat ≤ 16 :=
  ⟨(BitVec.toNat_ofNat _ _ ▸ Nat.mod_le _ _ : _ ≤ n.toNat).trans hn,
    (BitVec.toNat_ofNat _ _ ▸ Nat.mod_le _ _ : _ ≤ tb.toNat).trans htb⟩

/-- Each entry of HOST_LEN is a length of the operand or what was there before. -/
theorem withHost_hostLens (h : ∀ i : Fin 1024, s.hostLen[i].toNat ≤ maxCodeLen) (hdata : ∀ b ∈ data, b.toNat ≤ 16)
    (i : Fin 1024) : (s.withHost n tb data).hostLen[i].toNat ≤ maxCodeLen := by
  change ((writeLengths s.hostLen 0 (data.map (·.toNat)))[i.val]).toNat ≤ 16
  rw [writeLengths_getElem]
  split
  · next hi =>
    have hi : i.val < data.length := by simpa using hi.2
    have hb : (data.map (·.toNat)).getD (i.val - 0) 0 ≤ 16 := by
      rw [Nat.sub_zero, List.getD_eq_getElem _ _ (by simpa using hi), List.getElem_map]
      exact hdata _ (List.getElem_mem hi)
    exact Nat.le_trans (BitVec.toNat_ofNat _ _ ▸ Nat.mod_le _ _) hb
  · exact h i

theorem hostLengths_length_le : s.hostLengths.length ≤ s.hostN.toNat := by
  simp [State.hostLengths]

end

/-- HUF_BUILD's operands kept, with a table that codes symbols 0 .. HOST_N-1. -/
theorem invariant_withHost {s : State} {n tb : U32} {data : List Byte} {t : Table} (h : Invariant s)
    (hok : hufOperandsOk n.toNat tb.toNat data = true) (ht : symbolsBelow t (s.withHost n tb data).hostN.toNat) :
    Invariant { s.withHost n tb data with hostTable := t } := by
  obtain ⟨⟨-, hn⟩, ⟨-, htb⟩, -, hdata⟩ := (hufOperandsOk_iff _ _ _).1 hok
  exact { h with
    hostSize := withHost_hostSize s n tb data hn htb
    hostLens := withHost_hostLens s n tb data h.hostLens hdata
    hostSymbols := ht }

/-- HUF_BUILD: a failed build leaves no code, and one that succeeds codes the symbols of its lengths (42_huffman.md R135,
R136). -/
theorem keepsInvariant_doHufBuild (n tb : U32) (data : List Byte) : Leads KeepsInvariant (doHufBuild n tb data) :=
  Leads.of_left fun s hs => by
    rcases doHufBuild_cases n tb data s with ⟨-, h⟩ | ⟨hok, ⟨c, -, h⟩ | ⟨t, hb, h⟩⟩ <;> rw [h]
    · exact hs
    · exact invariant_withHost hs hok (symbolsBelow_nil rfl _)
    · obtain ⟨-, htb, -⟩ := (hufOperandsOk_iff _ _ _).1 hok
      refine invariant_withHost hs hok fun l hl => ?_
      exact (lt_length_of_getD_ne (sym_of_buildTable htb hb hl)).trans_le (hostLengths_length_le _)

/-! ## What the procedures do with the cursors -/

/-- STORE_LEN and the cursors agree. -/
structure SameCursors (s t : State) : Prop where
  storeLen : t.storeLen = s.storeLen
  byteOffset : t.byteOffset = s.byteOffset
  bitOffset : t.bitOffset = s.bitOffset

theorem SameCursors.preorder : Preorder SameCursors where
  refl _ := ⟨rfl, rfl, rfl⟩
  trans h k := ⟨k.1.trans h.1, k.2.trans h.2, k.3.trans h.3⟩

/-- A relation of STORE_LEN and the cursors alone passes to the command. -/
theorem Commandwise.of_sameCursors {R : State → State → Prop} (same : ∀ {s t}, SameCursors s t → R s t)
    (trans : ∀ {s t u}, R s t → R t u → R s u) : Commandwise R where
  preorder := ⟨fun s => same (SameCursors.preorder.refl s), trans⟩
  begins _ _ := same ⟨rfl, rfl, rfl⟩
  answers _ _ := same ⟨rfl, rfl, rfl⟩
  refuses _ := same ⟨rfl, rfl, rfl⟩
  faults _ _ := same ⟨rfl, rfl, rfl⟩

theorem cursorsInStore_zero {s : State} (hbyte : s.byteOff = 0) (hbit : s.bitOff = 0) : cursorsInStore s :=
  ⟨hbyte ▸ Nat.zero_le _, fun h => absurd hbit h⟩

/-- Cursors within STORE stay there. -/
structure StaysInStore (s t : State) : Prop where
  within : s.byteOff ≤ s.storeLen.toNat → t.byteOff ≤ t.storeLen.toNat
  inStore : cursorsInStore s → cursorsInStore t

/-- A read that moves forward by whole bit frames, or not at all. -/
structure FrameRead (s t : State) : Prop extends StaysInStore s t where
  forward : s.byteOff ≤ t.byteOff

/-- A read that moves forward by bytes and keeps BIT_OFFSET (41_buffer.md R94). -/
structure ByteRead (s t : State) : Prop where
  forward : s.byteOff ≤ t.byteOff
  within : s.byteOff ≤ s.storeLen.toNat → t.byteOff ≤ t.storeLen.toNat
  bitOff : t.bitOff = s.bitOff

/-- ALIGN: no move, or the two bytes from inside a frame to the next one (41_buffer.md R92). -/
structure AlignStep (s t : State) : Prop where
  storeLen : t.storeLen = s.storeLen
  cursors : t.byteOff = s.byteOff ∧ t.bitOff = s.bitOff ∨ s.bitOff ≠ 0 ∧ t.bitOff = 0 ∧ t.byteOff = s.byteOff + 2

section
variable {s t : State}

theorem SameCursors.frameRead (h : SameCursors s t) : FrameRead s t := by
  obtain ⟨hlen, hbyte, hbit⟩ := h
  have hbyte : t.byteOff = s.byteOff := congrArg BitVec.toNat hbyte
  have hbit : t.bitOff = s.bitOff := congrArg BitVec.toNat hbit
  refine ⟨⟨?_, ?_⟩, ?_⟩
  · rw [hlen, hbyte]
    exact id
  · rw [cursorsInStore, cursorsInStore, hlen, hbyte, hbit]
    exact id
  · rw [hbyte]

theorem SameCursors.byteRead (h : SameCursors s t) : ByteRead s t :=
  ⟨h.frameRead.forward, h.frameRead.within, congrArg BitVec.toNat h.bitOffset⟩

theorem SameCursors.alignStep (h : SameCursors s t) : AlignStep s t :=
  ⟨h.storeLen, .inl ⟨congrArg BitVec.toNat h.byteOffset, congrArg BitVec.toNat h.bitOffset⟩⟩

/-- At a frame boundary a byte read begins no frame. -/
theorem ByteRead.inStore (h : ByteRead s t) (h0 : s.bitOff = 0) (hs : cursorsInStore s) : cursorsInStore t :=
  ⟨h.within hs.1, fun hne => absurd (h.bitOff.trans h0) hne⟩

/-- A frame that is begun is in STORE whole, so the next one begins within STORE. -/
theorem AlignStep.inStore (h : AlignStep s t) (hs : cursorsInStore s) : cursorsInStore t := by
  obtain ⟨hlen, hmove⟩ := h
  obtain ⟨hle, hframe⟩ := hs
  rw [cursorsInStore, hlen]
  omega

end

theorem commandwise_staysInStore : Commandwise StaysInStore :=
  .of_sameCursors (fun h => h.frameRead.toStaysInStore)
    fun h k => ⟨fun hs => k.within (h.within hs), fun hs => k.inStore (h.inStore hs)⟩

theorem commandwise_frameRead : Commandwise FrameRead :=
  .of_sameCursors SameCursors.frameRead fun h k =>
    ⟨commandwise_staysInStore.preorder.trans h.toStaysInStore k.toStaysInStore, h.forward.trans k.forward⟩

theorem commandwise_byteRead : Commandwise ByteRead :=
  .of_sameCursors SameCursors.byteRead fun h k =>
    ⟨h.forward.trans k.forward, fun hs => k.within (h.within hs), k.bitOff.trans h.bitOff⟩

/-- ALIGN moves once: after the move BIT_OFFSET is 0. -/
theorem commandwise_alignStep : Commandwise AlignStep :=
  .of_sameCursors SameCursors.alignStep fun ⟨hlen, hmove⟩ ⟨klen, kmove⟩ => ⟨klen.trans hlen, by omega⟩

/-! ### Reads that move nothing -/

theorem Leads.frameRead {α : Type} {p : Proc α} (h : Leads SameCursors p) : Leads FrameRead p :=
  Leads.of_left fun s => (h s trivial).2.frameRead

theorem sameCursors_memRead (a n : Nat) : Leads SameCursors (memRead a n) := Leads.of_left fun s => by
  unfold memRead
  split <;> exact SameCursors.preorder.refl s

theorem sameCursors_peekBits (n : Nat) : Leads SameCursors (peekBits n) := Leads.of_left fun s => by
  rcases peekBits_cases n s with ⟨-, h⟩ | ⟨-, h⟩ <;> rw [h] <;> exact SameCursors.preorder.refl s

theorem sameCursors_doPeekBytes (n : U32) : Leads SameCursors (doPeekBytes n) :=
  Leads.bind_get fun _ => (sameCursors_memRead _ _).bind SameCursors.preorder fun _ => Keeps.pure SameCursors.preorder _

theorem sameCursors_doPeekBits (n : U32) : Leads SameCursors (doPeekBits n) :=
  Keeps.ite (fun _ => Keeps.raise SameCursors.preorder _) fun _ =>
    (sameCursors_peekBits _).bind SameCursors.preorder fun _ => Keeps.pure SameCursors.preorder _

theorem sameCursors_doGetPos : Leads SameCursors doGetPos :=
  Leads.bind_get fun _ => Keeps.pure SameCursors.preorder _

theorem sameCursors_doRegRead (a : U32) : Leads SameCursors (doRegRead a) := by
  refine Leads.bind_get fun s => ?_
  split
  · exact Keeps.pure SameCursors.preorder _
  · exact Keeps.raise SameCursors.preorder _

theorem sameCursors_doArrayRead (a b : U32) : Leads SameCursors (doArrayRead a b) := by
  refine Leads.bind_get fun s => ?_
  split
  · exact Keeps.pure SameCursors.preorder _
  · exact Keeps.raise SameCursors.preorder _

theorem sameCursors_doHufBuild (n tb : U32) (data : List Byte) : Leads SameCursors (doHufBuild n tb data) :=
  Leads.of_left fun s => by
    rcases doHufBuild_cases n tb data s with ⟨-, h⟩ | ⟨-, ⟨c, -, h⟩ | ⟨t, -, h⟩⟩ <;> rw [h] <;> exact ⟨rfl, rfl, rfl⟩

theorem sameCursors_doLzxReset : Leads SameCursors doLzxReset := Leads.of_left fun _ => ⟨rfl, rfl, rfl⟩

theorem sameCursors_doIllegal : Leads SameCursors doIllegal := Keeps.raise SameCursors.preorder _

/-! ### Byte reads -/

theorem byteRead_readRaw (n : Nat) : Leads ByteRead (readRaw n) := Leads.of_left fun s => by
  rcases readRaw_cases n s with ⟨hle, h⟩ | ⟨-, h⟩ <;> rw [h]
  · have hbyte := s.withCursor_byteOff s.bitOff (hle.trans_lt s.storeLen.isLt)
    exact ⟨(Nat.le_add_right _ _).trans_eq hbyte.symm, fun _ => hbyte.trans_le hle, s.withCursor_bitOff _ s.bitOff_lt⟩
  · exact commandwise_byteRead.preorder.refl s

/-- Byte reads in a row, and a value made of them. -/
theorem Leads.bind_byteRead {α β : Type} {p : Proc α} {f : α → Proc β} (hp : Leads ByteRead p)
    (hf : ∀ a, Leads ByteRead (f a)) : Leads ByteRead (p >>= f) :=
  Keeps.bind commandwise_byteRead.preorder hp hf

theorem byteRead_pure {α : Type} (a : α) : Leads ByteRead (pure a : Proc α) :=
  Keeps.pure commandwise_byteRead.preorder a

theorem byteRead_varintLoop (n i r : Nat) : Leads ByteRead (varintLoop n i r) := by
  induction n generalizing i r with
  | zero => exact Keeps.raise commandwise_byteRead.preorder _
  | succ n ih =>
    exact ((byteRead_readRaw 1).bind_byteRead fun _ => byteRead_pure _).bind_byteRead fun c =>
      Keeps.ite (fun _ => byteRead_pure _) fun _ => ih _ _

theorem byteRead_doReadBytes (n : U32) : Leads ByteRead (doReadBytes n) :=
  (byteRead_readRaw _).bind_byteRead fun _ => byteRead_pure _

theorem byteRead_readNumber (width : Nat) (value : List Byte → Result) : Leads ByteRead (readNumber width value) :=
  (byteRead_readRaw _).bind_byteRead fun _ => byteRead_pure _

theorem byteRead_doRead7Bit : Leads ByteRead doRead7Bit :=
  (byteRead_varintLoop 5 0 0).bind_byteRead fun _ => byteRead_pure _

theorem byteRead_doReadString : Leads ByteRead doReadString :=
  (byteRead_varintLoop 5 0 0).bind_byteRead fun _ => (byteRead_readRaw _).bind_byteRead fun _ => byteRead_pure _

theorem byteRead_doReadLzxInt16 : Leads ByteRead doReadLzxInt16 :=
  ((byteRead_readRaw 2).bind_byteRead fun _ => byteRead_pure _).bind_byteRead fun _ => byteRead_pure _

/-! ### Bit reads, ALIGN, LOAD -/

/-- The frame that the bits end in is in STORE whole (41_buffer.md R90). -/
theorem frameRead_advanced {s : State} {n : Nat} (h : framesPresent s n) : FrameRead s (advanced s n) := by
  have hlt := framesPresent_lt h
  have hbyte : (advanced s n).byteOff = s.byteOff + 2 * ((s.bitOff + n) / 16) := s.withCursor_byteOff _ hlt
  have hbit : (advanced s n).bitOff = (s.bitOff + n) % 16 := s.withCursor_bitOff _ (Nat.mod_lt _ (by decide))
  have hlen : (advanced s n).storeLen = s.storeLen := rfl
  have := s.bitOff_lt
  refine ⟨⟨?_, ?_⟩, ?_⟩
  · rw [hbyte, hlen]
    omega
  · rw [cursorsInStore, cursorsInStore, hbyte, hbit, hlen]
    omega
  · rw [hbyte]
    omega

/-- A missing frame leaves the cursors at it: all frames before it are in STORE (41_buffer.md R90). -/
theorem frameRead_readBits (n : Nat) : Leads FrameRead (readBits n) := Leads.of_left fun s => by
  by_cases h : framesPresent s n
  · rw [readBits_of_present h]
    exact frameRead_advanced h
  · rw [readBits_of_missing h, Proc.left_error]
    have hlt : s.byteOff + 2 * ((s.storeLen.toNat - s.byteOff) / 2) < 4294967296 := by
      have := s.storeLen.isLt
      have := s.byteOff_lt
      omega
    split
    · next hend =>
      have hstay : s.byteOff + 2 * ((s.storeLen.toNat - s.byteOff) / 2) = s.byteOff := by omega
      rw [hstay, State.withCursor_self]
      exact commandwise_frameRead.preorder.refl s
    · next hend =>
      have hbyte := s.withCursor_byteOff 0 hlt
      have hbit := s.withCursor_bitOff (s.byteOff + 2 * ((s.storeLen.toNat - s.byteOff) / 2)) (show 0 < 16 by decide)
      refine ⟨⟨?_, ?_⟩, ?_⟩
      · rw [hbyte, State.withCursor_storeLen]
        omega
      · rw [cursorsInStore, cursorsInStore, hbyte, hbit, State.withCursor_storeLen]
        omega
      · rw [hbyte]
        omega

theorem frameRead_doReadBits (n : U32) : Leads FrameRead (doReadBits n) :=
  Keeps.ite (fun _ => Keeps.raise commandwise_frameRead.preorder _) fun _ =>
    (frameRead_readBits _).bind commandwise_frameRead.preorder fun _ => Keeps.pure commandwise_frameRead.preorder _

theorem alignStep_alignCursor : Leads AlignStep alignCursor := Leads.of_left fun s => by
  rw [alignCursor_run]
  split
  · exact commandwise_alignStep.preorder.refl s
  · next hbit =>
    rcases writeCursor_cases (s.byteOff + 2) 0 s with ⟨hlt, h⟩ | ⟨-, h⟩ <;> rw [h]
    · exact ⟨rfl, .inr ⟨hbit, s.withCursor_bitOff _ (by decide), s.withCursor_byteOff _ hlt⟩⟩
    · exact commandwise_alignStep.preorder.refl s

theorem alignStep_doAlign : Leads AlignStep doAlign :=
  alignStep_alignCursor.bind commandwise_alignStep.preorder fun _ => Keeps.pure commandwise_alignStep.preorder _

theorem staysInStore_zero {s t : State} (hbyte : t.byteOff = 0) (hbit : t.bitOff = 0) : StaysInStore s t :=
  ⟨fun _ => (cursorsInStore_zero hbyte hbit).1, fun _ => cursorsInStore_zero hbyte hbit⟩

theorem staysInStore_doLoad (data : List Byte) : Leads StaysInStore (doLoad data) :=
  Keeps.ite (fun _ => Keeps.raise commandwise_staysInStore.preorder _) fun _ =>
    Leads.of_left fun _ => staysInStore_zero rfl rfl

/-! ## The procedures of the commands -/

/-- The commands that move BYTE_OFFSET by bytes. -/
abbrev byteReadOpcodes : List (BitVec 8) :=
  [0x03, 0x10, 0x11, 0x12, 0x13, 0x14, 0x15, 0x16, 0x17, 0x18, 0x19, 0x1A, 0x1B, 0x1C, 0x1D, 0x20, 0x21, 0x22]

/-- The reads and the peeks. -/
abbrev readOpcodes : List (BitVec 8) :=
  [0x03, 0x04, 0x10, 0x11, 0x12, 0x13, 0x14, 0x15, 0x16, 0x17, 0x18, 0x19, 0x1A, 0x1B, 0x1C, 0x1D, 0x20, 0x21, 0x22,
    0x30, 0x31]

/-- The seeks, SET_BIT_POS and the decoders, which may leave STORE. -/
abbrev freeOpcodes : List (BitVec 8) := [0x01, 0x02, 0x32, 0x41, 0x51, 0x60]

/-- What the procedure of a command does with the cursors. -/
inductive CursorUse (op : BitVec 8) (p : Proc Result) : Prop where
  /-- A read by bit frames, or no move at all. -/
  | frames (hp : Leads FrameRead p)
  /-- A read by bytes. -/
  | bytes (hop : op ∈ byteReadOpcodes) (hp : Leads ByteRead p)
  /-- ALIGN. -/
  | align (hop : op = 0x33) (hp : Leads AlignStep p)
  /-- LOAD. -/
  | load (hop : op = 0x70) (hp : Leads StaysInStore p)
  /-- Whatever it does. -/
  | free (hop : op ∈ freeOpcodes)

/-- Every command but RESET runs a procedure that keeps the invariant; with what it does with the cursors. -/
theorem exec_runs {op : BitVec 8} (a b : U32) (data : List Byte) (hr : op ≠ 0x7F) :
    ∃ p, Runs ⟨op, a, b, data⟩ p ∧ Leads KeepsInvariant p ∧ CursorUse op p := by
  rcases opcode_cases ⟨op, a, b, data⟩ with h | h | h | h | h
  · exact ⟨doIllegal, .inl fun _ => by rw [decodeCommand_illegal h]; rfl, (Framed.raise _).keepsInvariant,
      .frames sameCursors_doIllegal.frameRead⟩
  · rcases h with rfl | rfl | rfl | rfl | rfl | rfl | rfl
    · exact ⟨doSeekAbs a, .inl fun _ => rfl, (framed_doSeekAbs _).keepsInvariant, .free (by decide)⟩
    · exact ⟨doSeekRel a, .inl fun _ => rfl, (framed_doSeekRel _).keepsInvariant, .free (by decide)⟩
    · exact ⟨doReadBytes a, .inl fun _ => rfl, (framed_doReadBytes _).keepsInvariant,
        .bytes (by decide) (byteRead_doReadBytes a)⟩
    · exact ⟨doPeekBytes a, .inl fun _ => rfl, (framed_doPeekBytes _).keepsInvariant,
        .frames (sameCursors_doPeekBytes a).frameRead⟩
    · exact ⟨doGetPos, .inl fun _ => rfl, framed_doGetPos.keepsInvariant, .frames sameCursors_doGetPos.frameRead⟩
    · exact ⟨doRegRead a, .inr fun _ => rfl, (framed_doRegRead _).keepsInvariant,
        .frames (sameCursors_doRegRead a).frameRead⟩
    · exact ⟨doArrayRead a b, .inr fun _ => rfl, (framed_doArrayRead _ _).keepsInvariant,
        .frames (sameCursors_doArrayRead a b).frameRead⟩
  · rcases h with rfl | rfl | rfl | rfl | rfl | rfl | rfl | rfl | rfl | rfl | rfl | rfl | rfl | rfl
    all_goals exact ⟨_, .inl fun _ => rfl, (framed_readNumber _ _).keepsInvariant,
      .bytes (by decide) (byteRead_readNumber _ _)⟩
  · rcases h with rfl | rfl | rfl | rfl | rfl | rfl | rfl
    · exact ⟨doRead7Bit, .inl fun _ => rfl, framed_doRead7Bit.keepsInvariant, .bytes (by decide) byteRead_doRead7Bit⟩
    · exact ⟨doReadString, .inl fun _ => rfl, framed_doReadString.keepsInvariant,
        .bytes (by decide) byteRead_doReadString⟩
    · exact ⟨doReadLzxInt16, .inl fun _ => rfl, framed_doReadLzxInt16.keepsInvariant,
        .bytes (by decide) byteRead_doReadLzxInt16⟩
    · exact ⟨doReadBits a, .inl fun _ => rfl, (framed_doReadBits _).keepsInvariant, .frames (frameRead_doReadBits a)⟩
    · exact ⟨doPeekBits a, .inl fun _ => rfl, (framed_doPeekBits _).keepsInvariant,
        .frames (sameCursors_doPeekBits a).frameRead⟩
    · exact ⟨doSetBitPos a, .inl fun _ => rfl, (framed_doSetBitPos _).keepsInvariant, .free (by decide)⟩
    · exact ⟨doAlign, .inl fun _ => rfl, framed_doAlign.keepsInvariant, .align rfl alignStep_doAlign⟩
  · rcases h with rfl | rfl | rfl | rfl | rfl | rfl | rfl
    · exact ⟨doHufBuild a b data, .inl fun _ => rfl, keepsInvariant_doHufBuild _ _ _,
        .frames (sameCursors_doHufBuild a b data).frameRead⟩
    · exact ⟨doHufDecode, .inl fun _ => rfl, framed_doHufDecode.keepsInvariant, .free (by decide)⟩
    · exact ⟨doLzxReset, .inl fun _ => rfl, keepsInvariant_doLzxReset, .frames sameCursors_doLzxReset.frameRead⟩
    · exact ⟨doLzxDecompress a b, .inl fun _ => rfl, (framed_doLzxDecompress _ _).keepsInvariant, .free (by decide)⟩
    · exact ⟨doFrmRun a b, .inl fun _ => rfl, (framed_doFrmRun _ _).keepsInvariant, .free (by decide)⟩
    · exact ⟨doLoad data, .inl fun _ => rfl, keepsInvariant_doLoad data, .load rfl (staysInStore_doLoad data)⟩
    · exact absurd rfl hr

theorem exec_resetCommand {c : Command} {s t : State} (hr : c.opcode = 0x7F) (h : exec (decodeCommand c) s = .next t) :
    t = resetCore s := by
  obtain ⟨op, a, b, data⟩ := c
  cases hr
  cases h
  rfl

/-! ## The invariant under a step -/

/-- RESET keeps nothing but the parameters and the commands, of which the invariant does not speak. -/
theorem invariant_resetCore (s : State) : Invariant (resetCore s) := { invariant_reset with }

theorem exec_keepsInvariant {c : Command} {s t : State} (h : exec (decodeCommand c) s = .next t) :
    KeepsInvariant s t := by
  by_cases hr : c.opcode = 0x7F
  · rw [exec_resetCommand hr h]
    exact fun _ => invariant_resetCore s
  · obtain ⟨p, hp, hinv, -⟩ := exec_runs c.a c.b c.data hr
    exact hp.keeps commandwise_keepsInvariant hinv h

/-- Settles O15: a step waits, or takes the oldest command and runs it; every command keeps the invariant. -/
theorem stepKeepsTheInvariant : Obligations.StepKeepsTheInvariant := by
  intro s t hs h
  cases hp : s.pending with
  | nil =>
    rw [step_of_idle hp] at h
    cases h
    exact hs
  | cons c rest =>
    rw [step_of_command hp] at h
    exact exec_keepsInvariant h { hs with }

/-! ## The cursors within STORE -/

/-- Settles O20: by what the procedure of the command does with the cursors. -/
theorem readsStayInTheStore : Obligations.ReadsStayInTheStore := by
  intro c s t hs h
  have hs : s.byteOff ≤ s.storeLen.toNat := hs
  by_cases hr : c.opcode = 0x7F
  · have ht : StaysInStore s t := exec_resetCommand hr h ▸ staysInStore_zero rfl rfl
    rw [hr]
    exact ⟨fun _ => ht.within hs, fun hop => absurd hop (by decide), fun hop => absurd hop (by decide),
      fun _ _ => ht.inStore⟩
  obtain ⟨p, hp, -, huse⟩ := exec_runs c.a c.b c.data hr
  cases huse with
  | frames hread =>
    have ht := hp.keeps commandwise_frameRead hread h
    exact ⟨fun _ => ht.within hs, fun _ => ht.forward, fun _ => .inl (ht.within hs), fun _ _ => ht.inStore⟩
  | bytes hop hread =>
    have ht := hp.keeps commandwise_byteRead hread h
    exact ⟨fun _ => ht.within hs, fun _ => ht.forward, fun _ => .inl (ht.within hs), fun _ h0 => ht.inStore (h0 hop)⟩
  | align hop hstep =>
    have ht := hp.keeps commandwise_alignStep hstep h
    rw [hop]
    refine ⟨fun hn => absurd (by decide) hn, fun hm => absurd hm (by decide), fun _ => ?_, fun _ _ => ht.inStore⟩
    rcases ht.cursors with ⟨hbyte, -⟩ | hmove
    · refine .inl ?_
      rw [BitVec.le_def, ht.storeLen]
      exact hbyte.trans_le hs
    · exact .inr hmove
  | load hop hload =>
    have ht := hp.keeps commandwise_staysInStore hload h
    rw [hop]
    exact ⟨fun _ => ht.within hs, fun hm => absurd hm (by decide), fun hm => absurd hm (by decide), fun _ _ => ht.inStore⟩
  | free hop =>
    have hlists : ∀ op ∈ freeOpcodes, op ∈ [0x01, 0x02, 0x32, 0x33, 0x41, 0x51, 0x60] ∧
        op ∉ readOpcodes ∧ op ≠ 0x33 := by decide
    obtain ⟨hfree, hread, halign⟩ := hlists c.opcode hop
    exact ⟨fun hn => absurd hfree hn, fun hm => absurd hm hread, fun hm => absurd hm halign,
      fun hn => absurd hop hn⟩

/-! ## The observation port -/

section
variable {op : BitVec 8} {p : Proc Result} {s t : State}

/-- An observation answers in FAULTED as in IDLE (60_exceptions.md R179). -/
theorem observation_of_ok {r : Result} (hp : p (s.begin op) = .ok r t) :
    observation op p s = .next (t.answer (.ok r)) := by
  cases hf : s.faulted with
  | true => rw [observation, if_pos hf, hp]
  | false => rw [observation_of_idle op p hf, command_of_ok hf hp]

/-- An observation with an invalid operand faults in IDLE and is refused in FAULTED (60_exceptions.md R179). -/
theorem observation_of_raise {k : Cause} (hp : p (s.begin op) = .error (.raise k) t) :
    observation op p s = .next (if s.faulted then s.refuse else faultEntry k t) := by
  cases hf : s.faulted with
  | true => rw [observation, if_pos hf, hp, if_pos rfl]
  | false => rw [observation_of_idle op p hf, command_of_raise hf hp, if_neg Bool.false_ne_true]

end

section
variable (s : State) (a b : U32)

theorem exec_regRead_of_some {v : Nat} (h : s.register a.toNat = some v) :
    exec (.regRead a) s = .next (succeeded (.nat v) s) := by
  have hp : doRegRead a (s.begin 0x06) = .ok (.nat v) (s.begin 0x06) := by
    have h : (s.begin 0x06).register a.toNat = some v := h
    rw [doRegRead, Proc.bind_get, h]
    rfl
  exact observation_of_ok (t := s.begin 0x06) hp

theorem exec_regRead_of_none (h : s.register a.toNat = none) :
    exec (.regRead a) s = .next (if s.faulted then refusing s else faulting 0x06 .reservedRegister s) := by
  have hp : doRegRead a (s.begin 0x06) = .error (.raise .reservedRegister) (s.begin 0x06) := by
    have h : (s.begin 0x06).register a.toNat = none := h
    rw [doRegRead, Proc.bind_get, h]
    rfl
  exact observation_of_raise hp

theorem exec_arrayRead_of_some {r : Result} (h : s.arrayElement a.toNat b.toNat = some r) :
    exec (.arrayRead a b) s = .next (succeeded r s) := by
  have hp : doArrayRead a b (s.begin 0x07) = .ok r (s.begin 0x07) := by
    have h : (s.begin 0x07).arrayElement a.toNat b.toNat = some r := h
    rw [doArrayRead, Proc.bind_get, h]
    rfl
  exact observation_of_ok (t := s.begin 0x07) hp

theorem exec_arrayRead_of_none (h : s.arrayElement a.toNat b.toNat = none) :
    exec (.arrayRead a b) s = .next (if s.faulted then refusing s else faulting 0x07 .badOperand s) := by
  have hp : doArrayRead a b (s.begin 0x07) = .error (.raise .badOperand) (s.begin 0x07) := by
    have h : (s.begin 0x07).arrayElement a.toNat b.toNat = none := h
    rw [doArrayRead, Proc.bind_get, h]
    rfl
  exact observation_of_raise hp

end

/-! ### The register map -/

theorem extra3Code_eq_ite (m : Extra3Mode) : extra3Code m = if m = .sourceLiteral then 1 else 0 := by
  cases m <;> rfl

/-- What a register shows is what the map lists for its number (10_state.md R36). -/
theorem mem_registerMap_of_register {s : State} {a v : Nat} (h : s.register a = some v) : (a, v) ∈ registerMap s := by
  unfold State.register at h
  split at h <;> cases h
  all_goals simp [registerMap, State.statusWord, State.validWord, extra3Code_eq_ite, Bool.toNat]

/-- What the map lists for a number, its register shows. -/
theorem register_of_mem_registerMap {s : State} {a v : Nat} (h : (a, v) ∈ registerMap s) : s.register a = some v := by
  have hall : ∀ entry ∈ registerMap s, s.register entry.1 = some entry.2 := by
    simp [registerMap, State.register, State.statusWord, State.validWord, extra3Code_eq_ite, Bool.toNat]
  exact hall (a, v) h

/-- Settles O32: the model's register map is the map of R36. -/
theorem registerReads : Obligations.RegisterReads := by
  intro s a
  refine ⟨fun v h => exec_regRead_of_some s a (register_of_mem_registerMap h), fun h => ?_⟩
  refine exec_regRead_of_none s a (Option.eq_none_iff_forall_ne_some.2 fun v hv => ?_)
  exact h v (mem_registerMap_of_register hv)

/-! ### The array map -/

section
variable (s : State) {i : Nat}

theorem arrayElement_mainLen (h : i < 656) : s.arrayElement 0 i = some (.nat s.mainLen[i].toNat) :=
  congrArg (Option.map _) (Vector.getElem?_eq_getElem h)

theorem arrayElement_lengthLen (h : i < 250) : s.arrayElement 1 i = some (.nat s.lengthLen[i].toNat) :=
  congrArg (Option.map _) (Vector.getElem?_eq_getElem h)

theorem arrayElement_alignedLen (h : i < 8) : s.arrayElement 2 i = some (cellResult s.alignedLen[i]) :=
  congrArg (Option.map _) (Vector.getElem?_eq_getElem h)

theorem arrayElement_pretreeLen (h : i < 20) : s.arrayElement 3 i = some (cellResult s.pretreeLen[i]) :=
  congrArg (Option.map _) (Vector.getElem?_eq_getElem h)

theorem arrayElement_window (h : i < 65536) : s.arrayElement 4 i = some (cellResult (s.windowByte i)) :=
  if_pos h

theorem arrayElement_frmOut (h : i < s.frmOut.length) : s.arrayElement 5 i = some (.nat s.frmOut[i].toNat) :=
  congrArg (Option.map _) (List.getElem?_eq_getElem h)

theorem arrayElement_hostLen (h : i < 1024) (hn : i < s.hostN.toNat) :
    s.arrayElement 6 i = some (.nat s.hostLen[i].toNat) :=
  (if_pos hn).trans (congrArg (Option.map _) (Vector.getElem?_eq_getElem h))

end

/-- Outside the ranges there is no element (10_state.md R37). -/
theorem arrayElement_eq_none {s : State} {a b : Nat} (h : noElement s a b) : s.arrayElement a b = none := by
  rcases h with h | ⟨rfl, h⟩ | ⟨rfl, h⟩ | ⟨rfl, h⟩ | ⟨rfl, h⟩ | ⟨rfl, h⟩ | ⟨rfl, h⟩ | ⟨rfl, h⟩
  · unfold State.arrayElement
    split
    case h_8 => rfl
    all_goals omega
  all_goals simp [State.arrayElement, windowSize, h]

/-- Settles O33: the model's array map is the map of R37, clause by clause. -/
theorem arrayReads : Obligations.ArrayReads := by
  intro s a b
  refine ⟨fun h => ?_, fun h => ?_, fun h => ?_, fun h => ?_, fun h => ?_, fun h => ?_, fun h hn => ?_, fun h => ?_⟩
  · exact exec_arrayRead_of_some s 0 b (arrayElement_mainLen s h)
  · exact exec_arrayRead_of_some s 1 b (arrayElement_lengthLen s h)
  · refine (exec_arrayRead_of_some s 2 b (arrayElement_alignedLen s h)).trans ?_
    cases s.alignedLen[b.toNat] <;> rfl
  · refine (exec_arrayRead_of_some s 3 b (arrayElement_pretreeLen s h)).trans ?_
    cases s.pretreeLen[b.toNat] <;> rfl
  · refine (exec_arrayRead_of_some s 4 b (arrayElement_window s h)).trans ?_
    cases s.windowByte b.toNat <;> rfl
  · exact exec_arrayRead_of_some s 5 b (arrayElement_frmOut s h)
  · exact exec_arrayRead_of_some s 6 b (arrayElement_hostLen s h hn)
  · exact exec_arrayRead_of_none s a b (arrayElement_eq_none h)

/-! ## The ROM tables -/

theorem extraBits_pair (i : Nat) : extraBits (2 * i) = extraBits (2 * i + 1) := by
  unfold extraBits
  split_ifs <;> omega

/-- One bit more for every pair of slots after the first two pairs, at most 17 (10_state.md R31). -/
theorem extraBits_next_pair (i : Nat) :
    extraBits (2 * (i + 1)) = if i ≠ 0 ∧ extraBits (2 * i) < 17 then extraBits (2 * i) + 1 else extraBits (2 * i) := by
  unfold extraBits
  split_ifs <;> omega

/-- Settles O5. -/
theorem romTables : Obligations.RomTables :=
  ⟨rfl, rfl, rfl, fun i _ => extraBits_pair i, fun i _ => extraBits_next_pair i, fun _ _ => rfl, by decide⟩

end Sys2Proof.Machine

/-!
PROOFS of 20_memory.md. Which instructions write STORE (O17), by a table of the procedures that the instructions run; and
how the bits of the stream split where one read ends and the next begins (O31).
-/

namespace Sys2Proof.Machine

open Sys2Proof.Safety

/-! ## Relations that an instruction keeps -/

section
variable {R : State → State → Prop} {op : BitVec 8} {p : Proc Result} {s t u : State}

theorem Commandwise.answered (hR : Commandwise R) (hp : Leads R p) {r : Result} (hu : p (s.begin op) = .ok r u) :
    R s (u.answer (.ok r)) :=
  hR.preorder.trans (hR.preorder.trans (hR.begins s op) (Keeps.ok hp trivial hu).2) (hR.answers u _)

theorem Commandwise.raised (hR : Commandwise R) (hp : Leads R p) {k : Cause}
    (hu : p (s.begin op) = .error (.raise k) u) : R s (faultEntry k u) :=
  hR.preorder.trans (hR.preorder.trans (hR.begins s op) (Keeps.error hp trivial hu).2) (hR.faults u k)

theorem Commandwise.keeps_command (hR : Commandwise R) (hp : Leads R p) (h : command op p s = .next t) : R s t := by
  rcases command_eq_next h with ⟨-, rfl⟩ | ⟨-, r, u, hu, rfl⟩ | ⟨-, k, u, hu, rfl⟩
  · exact hR.refuses s
  · exact hR.answered hp hu
  · exact hR.raised hp hu

theorem Commandwise.keeps_observation (hR : Commandwise R) (hp : Leads R p) (h : observation op p s = .next t) :
    R s t := by
  rcases observation_eq_next h with ⟨r, u, hu, rfl⟩ | ⟨-, rfl⟩ | ⟨-, k, u, hu, rfl⟩
  · exact hR.answered hp hu
  · exact hR.refuses s
  · exact hR.raised hp hu

/-- An element begins no command and answers nothing: its procedure and the entry of its fault are all it does. -/
theorem Commandwise.keeps_element (hR : Commandwise R) {q : Proc Unit} (hq : Leads R q) (h : element q s = .next t) :
    R s t := by
  rcases element_eq_next h with ⟨-, rfl⟩ | ⟨-, hu⟩ | ⟨-, k, u, hu, rfl⟩
  · exact hR.refuses s
  · exact (Keeps.ok hq trivial hu).2
  · exact hR.preorder.trans (Keeps.error hq trivial hu).2 (hR.faults u k)

end

/-! ## What leaves STORE alone -/

/-- STORE, STORE_LEN and the parameters agree. -/
structure SameStore (s t : State) : Prop where
  store : t.store = s.store
  storeLen : t.storeLen = s.storeLen
  params : t.params = s.params

theorem SameStore.storeByte {s t : State} (h : SameStore s t) (a : Nat) : t.storeByte a = s.storeByte a := by
  rw [State.storeByte, h.store, State.storeByte]

theorem commandwise_sameStore : Commandwise SameStore where
  preorder := ⟨fun _ => ⟨rfl, rfl, rfl⟩,
    fun h k => ⟨k.store.trans h.store, k.storeLen.trans h.storeLen, k.params.trans h.params⟩⟩
  begins _ _ := ⟨rfl, rfl, rfl⟩
  answers _ _ := ⟨rfl, rfl, rfl⟩
  refuses _ := ⟨rfl, rfl, rfl⟩
  faults _ _ := ⟨rfl, rfl, rfl⟩

theorem Framed.sameStore {α : Type} {p : Proc α} (h : Framed p) : Leads SameStore p :=
  Leads.of_left fun s => ⟨(h.left s).1.store, (h.left s).1.storeLen, (h.left s).1.params⟩

theorem sameStore_doHufBuild (n tb : U32) (data : List Byte) : Leads SameStore (doHufBuild n tb data) :=
  Leads.of_left fun s => by
    rcases doHufBuild_cases n tb data s with ⟨-, h⟩ | ⟨-, ⟨c, -, h⟩ | ⟨t, -, h⟩⟩ <;> rw [h] <;> exact ⟨rfl, rfl, rfl⟩

theorem sameStore_doLzxReset : Leads SameStore doLzxReset := Leads.of_left fun _ => ⟨rfl, rfl, rfl⟩

section
variable {i : Instr} {s t : State}

/-- No procedure but those of LOAD and RESET writes STORE: the buffer, the engine and the elements keep the engine's
frame, and HUF_BUILD and LZX_RESET write other registers. -/
theorem exec_sameStore (hload : ∀ data, i ≠ .load data) (hreset : i ≠ .reset) (h : exec i s = .next t) :
    SameStore s t := by
  have hR := commandwise_sameStore
  have helement (he : exec i s = element (runElement i) s) : SameStore s t :=
    hR.keeps_element (framed_runElement i).sameStore (he ▸ h)
  cases i with
  | load data => exact absurd rfl (hload data)
  | reset => exact absurd rfl hreset
  | regRead a => exact hR.keeps_observation (framed_doRegRead a).sameStore h
  | arrayRead a b => exact hR.keeps_observation (framed_doArrayRead a b).sameStore h
  | hufBuild n tb data => exact hR.keeps_command (sameStore_doHufBuild n tb data) h
  | lzxReset => exact hR.keeps_command sameStore_doLzxReset h
  | seekAbs a => exact hR.keeps_command (framed_doSeekAbs a).sameStore h
  | seekRel d => exact hR.keeps_command (framed_doSeekRel d).sameStore h
  | readBytes n => exact hR.keeps_command (framed_doReadBytes n).sameStore h
  | peekBytes n => exact hR.keeps_command (framed_doPeekBytes n).sameStore h
  | getPos => exact hR.keeps_command framed_doGetPos.sameStore h
  | readU8 | readI8 | readU16LE | readU16BE | readI16LE | readI16BE | readU32LE | readU32BE | readI32LE | readI32BE
  | readF32LE | readF32BE | readF64LE | readF64BE => exact hR.keeps_command (framed_readNumber _ _).sameStore h
  | read7Bit => exact hR.keeps_command framed_doRead7Bit.sameStore h
  | readString => exact hR.keeps_command framed_doReadString.sameStore h
  | readLzxInt16 => exact hR.keeps_command framed_doReadLzxInt16.sameStore h
  | readBits n => exact hR.keeps_command (framed_doReadBits n).sameStore h
  | peekBits n => exact hR.keeps_command (framed_doPeekBits n).sameStore h
  | setBitPos v => exact hR.keeps_command (framed_doSetBitPos v).sameStore h
  | align => exact hR.keeps_command framed_doAlign.sameStore h
  | hufDecode => exact hR.keeps_command framed_doHufDecode.sameStore h
  | lzxDecompress fs bs => exact hR.keeps_command (framed_doLzxDecompress fs bs).sameStore h
  | frmRun clen dlen => exact hR.keeps_command (framed_doFrmRun clen dlen).sameStore h
  | illegal op => exact hR.keeps_command (Framed.raise .illegalOpcode).sameStore h
  | _ => exact helement rfl

/-- LOAD writes STORE and the cursors, and the parameters stay (00_scope.md R8). -/
theorem exec_load_params {data : List Byte} (h : exec (.load data) s = .next t) : t.params = s.params := by
  have hR : Commandwise fun s t : State => t.params = s.params :=
    ⟨⟨fun _ => rfl, fun h k => k.trans h⟩, fun _ _ => rfl, fun _ _ => rfl, fun _ => rfl, fun _ _ => rfl⟩
  exact hR.keeps_command (Leads.of_left fun s => (recorded_doLoad data s trivial).2.params) h

theorem exec_reset_params (h : exec .reset s = .next t) : t.params = s.params := by
  cases h
  rfl

end

/-- Settles O17: LOAD and RESET leave the parameters, every other instruction leaves STORE too. -/
theorem onlyLoadAndResetChangeTheStore : Obligations.OnlyLoadAndResetChangeTheStore := by
  intro i s t h
  by_cases hload : ∃ data, i = .load data
  · obtain ⟨data, rfl⟩ := hload
    exact ⟨exec_load_params h, fun hl => absurd rfl (hl data)⟩
  by_cases hreset : i = .reset
  · subst hreset
    exact ⟨exec_reset_params h, fun _ hr => absurd rfl hr⟩
  have hkept := exec_sameStore (not_exists.1 hload) hreset h
  exact ⟨hkept.params, fun _ _ => ⟨hkept.storeLen, hkept.storeByte⟩⟩

/-! ## The stream after a bit read -/

section
variable {s : State} {n m : Nat}

/-- The cursors after `n` bits that are in STORE: BYTE_OFFSET does not wrap. -/
theorem advanced_cursors (h : framesPresent s n) :
    (advanced s n).byteOff = s.byteOff + 2 * ((s.bitOff + n) / 16) ∧ (advanced s n).bitOff = (s.bitOff + n) % 16 :=
  ⟨Nat.mod_eq_of_lt (framesPresent_lt h), Nat.mod_mod _ 16⟩

/-- The frames of `n + m` bits hold the first `n` and the `m` after them. -/
theorem framesPresent_advanced (h : framesPresent s (n + m)) : framesPresent (advanced s n) m := by
  obtain ⟨hbyte, hbit⟩ := advanced_cursors (framesPresent_mono h (Nat.le_add_right n m))
  have hlen : (advanced s n).storeLen = s.storeLen := rfl
  rw [framesPresent, hbyte, hbit, hlen]
  omega

theorem advanced_advanced (h : framesPresent s n) : advanced (advanced s n) m = advanced s (n + m) := by
  obtain ⟨hbyte, hbit⟩ := advanced_cursors h
  have hframes : s.byteOff + 2 * ((s.bitOff + n) / 16) + 2 * (((s.bitOff + n) % 16 + m) / 16)
      = s.byteOff + 2 * ((s.bitOff + (n + m)) / 16) := by omega
  have hrest : ((s.bitOff + n) % 16 + m) % 16 = (s.bitOff + (n + m)) % 16 := by omega
  rw [advanced, hbyte, hbit, hframes, hrest]
  rfl

/-- Bit `j` of the stream after `n` bits is bit `n + j` of the stream. -/
theorem streamBit_advanced (h : framesPresent s n) (j : Nat) : streamBit (advanced s n) j = streamBit s (n + j) := by
  obtain ⟨hbyte, hbit⟩ := advanced_cursors h
  have hframes : s.byteOff + 2 * ((s.bitOff + n) / 16) + 2 * (((s.bitOff + n) % 16 + j) / 16)
      = s.byteOff + 2 * ((s.bitOff + (n + j)) / 16) := by omega
  have hrest : ((s.bitOff + n) % 16 + j) % 16 = (s.bitOff + (n + j)) % 16 := by omega
  rw [streamBit, hbyte, hbit, hframes, hrest]
  rfl

/-- The bits of the stream in order are the first `n` and the `m` after them (20_memory.md R51). -/
theorem streamBits_add (h : framesPresent s n) :
    streamBits s (n + m) = streamBits s n ++ streamBits (advanced s n) m := by
  rw [streamBits, List.range_add, List.map_append, List.map_map]
  congr 1
  exact List.map_congr_left fun j _ => (streamBit_advanced h j).symm

@[simp] theorem streamBits_length (s : State) (n : Nat) : (streamBits s n).length = n := by
  rw [streamBits, List.length_map, List.length_range]

theorem ofBits_streamBits_lt (s : State) (n : Nat) : ofBits (streamBits s n) < 2 ^ n := by
  simpa using ofBits_lt (streamBits s n)

/-- A field of `n + m` bits is its first `n` bits above the `m` after them. -/
theorem ofBits_streamBits_add (h : framesPresent s n) :
    ofBits (streamBits s (n + m)) = ofBits (streamBits s n) * 2 ^ m + ofBits (streamBits (advanced s n) m) := by
  rw [streamBits_add h, ofBits_append, streamBits_length]

end

/-! ## The bit commands on bits that are in STORE -/

section
variable {s : State} {n : U32}

/-- READ_BITS returns the next bits and passes them (41_buffer.md R90, R118). -/
theorem exec_readBits_of_present (hs : s.faulted = false) (hn : n.toNat ≤ 16) (h : framesPresent s n.toNat) :
    exec (.readBits n) s = .next (succeeded (.nat (ofBits (streamBits s n.toNat))) (advanced s n.toNat)) := by
  have hread : readBits n.toNat (s.begin 0x30)
      = .ok (ofBits (streamBits s n.toNat)) (advanced (s.begin 0x30) n.toNat) := readBits_of_present h
  have hp : doReadBits n (s.begin 0x30)
      = .ok (.nat (ofBits (streamBits s n.toNat))) (advanced (s.begin 0x30) n.toNat) := by
    rw [doReadBits, if_neg (Nat.not_lt.2 hn), Proc.bind_of_ok hread]
    rfl
  exact command_of_ok (t := advanced (s.begin 0x30) n.toNat) hs hp

/-- PEEK_BITS returns them and moves nothing (41_buffer.md R91, R119). -/
theorem exec_peekBits_of_present (hs : s.faulted = false) (hn : n.toNat ≤ 32) (h : framesPresent s n.toNat) :
    exec (.peekBits n) s = .next (succeeded (.nat (ofBits (streamBits s n.toNat))) s) := by
  have hpeek : peekBits n.toNat (s.begin 0x31) = .ok (ofBits (streamBits s n.toNat)) (s.begin 0x31) :=
    peekBits_of_present h
  have hp : doPeekBits n (s.begin 0x31) = .ok (.nat (ofBits (streamBits s n.toNat))) (s.begin 0x31) := by
    rw [doPeekBits, if_neg (Nat.not_lt.2 hn), Proc.bind_of_ok hpeek]
    rfl
  exact command_of_ok (t := s.begin 0x31) hs hp

end

/-- Settles O31: the second read finds its frames where the first one ends, and the peek's bits are theirs one after
the other. -/
theorem bitReadsConcatenate : Obligations.BitReadsConcatenate := by
  intro s n m hs hn hm hframes
  have hfirst : framesPresent s n.toNat := framesPresent_mono hframes (Nat.le_add_right _ _)
  have hread := exec_readBits_of_present hs hn hfirst
  have hsecond : framesPresent (advanced s n.toNat) m.toNat := framesPresent_advanced hframes
  have hreadNext := exec_readBits_of_present
    (s := succeeded (.nat (ofBits (streamBits s n.toNat))) (advanced s n.toNat)) hs hm hsecond
  have hsum : (n + m).toNat = n.toNat + m.toNat := BitVec.toNat_add_of_lt (by omega)
  have hpeek := exec_peekBits_of_present (n := n + m) hs (by omega) (hsum ▸ hframes)
  rw [hsum, ofBits_streamBits_add hfirst] at hpeek
  have hend : advanced (advanced s n.toNat) m.toNat = advanced s (n.toNat + m.toNat) := advanced_advanced hfirst
  have hbyte := congrArg State.byteOffset hend
  have hbit := congrArg State.bitOffset hend
  exact ⟨_, _, _, _, hread, rfl, hreadNext, rfl, ofBits_streamBits_lt _ _, hpeek, hbyte, hbit⟩

end Sys2Proof.Machine

/-!
PROOFS of 30_encoding.md: the decoder against the encoder (O3, O4), the codes written out by hand (O1), the illegal
opcodes (O2), the offsets of the slots (O6), the canonical codes (O36), and ALIGN (O28). Then the elements as they stand
in the stream: a field that comes next is read as itself (O46, O43), and a container of one Uncompressed block (O58).
-/

namespace Sys2Proof

open Sys2Proof.Machine (extraBits positionBase)

/-! ## Fields and their values -/

/-- The field of a kind that holds a value. -/
def FieldKind.field : FieldKind → Nat → Field
  | .raw w, v => .raw w v
  | .sym x, v => .sym x v

/-- The values a field of a kind can hold. -/
def FieldKind.admits : FieldKind → Nat → Prop
  | .raw w, v => v < 2 ^ w
  | .sym x, v => v < codedSymbols x

theorem fieldValue_eq_ok {k : FieldKind} {f : Field} {v : Nat} :
    fieldValue k f = .ok v ↔ f = k.field v ∧ k.admits v := by
  cases k <;> cases f <;> simp only [fieldValue, FieldKind.field, FieldKind.admits, reduceCtorEq, false_and]
  case raw.raw w w' v' => split_ifs <;> grind
  case sym.sym x x' v' => split_ifs <;> grind

theorem fieldValues_nil_eq_ok {fs : List Field} {vs : List Nat} :
    fieldValues [] fs = .ok vs ↔ fs = [] ∧ vs = [] := by
  cases fs <;> simp [fieldValues, eq_comm]

theorem fieldValues_cons_eq_ok {k : FieldKind} {ks : List FieldKind} {fs : List Field} {vs : List Nat} :
    fieldValues (k :: ks) fs = .ok vs ↔
      ∃ v gs us, fs = k.field v :: gs ∧ vs = v :: us ∧ k.admits v ∧ fieldValues ks gs = .ok us := by
  constructor
  · intro h
    cases fs with
    | nil => cases h
    | cons f gs =>
      rw [fieldValues] at h
      split at h
      · cases h
      · next v hv =>
        obtain ⟨rfl, hadm⟩ := fieldValue_eq_ok.1 hv
        split at h
        · cases h
        · next us hus =>
          cases h
          exact ⟨v, gs, us, rfl, rfl, hadm, hus⟩
  · rintro ⟨v, gs, us, rfl, rfl, hv, hus⟩
    rw [fieldValues, fieldValue_eq_ok.2 ⟨rfl, hv⟩]
    simp only [hus]

/-- One field of a kind. -/
theorem fieldValues_singleton_eq_ok {k : FieldKind} {fs : List Field} {vs : List Nat} :
    fieldValues [k] fs = .ok vs ↔ ∃ v, fs = [k.field v] ∧ vs = [v] ∧ k.admits v := by
  simp only [fieldValues_cons_eq_ok, fieldValues_nil_eq_ok]
  grind

/-- Two fields. -/
theorem fieldValues_pair_eq_ok {k l : FieldKind} {fs : List Field} {vs : List Nat} :
    fieldValues [k, l] fs = .ok vs ↔
      ∃ v u, fs = [k.field v, l.field u] ∧ vs = [v, u] ∧ k.admits v ∧ l.admits u := by
  simp only [fieldValues_cons_eq_ok (ks := [l]), fieldValues_singleton_eq_ok]
  grind

/-- Three fields. -/
theorem fieldValues_triple_eq_ok {k l m : FieldKind} {fs : List Field} {vs : List Nat} :
    fieldValues [k, l, m] fs = .ok vs ↔
      ∃ v u x, fs = [k.field v, l.field u, m.field x] ∧ vs = [v, u, x] ∧ k.admits v ∧ l.admits u ∧ m.admits x := by
  simp only [fieldValues_cons_eq_ok (ks := [l, m]), fieldValues_pair_eq_ok]
  grind

/-- Fields of one kind, any number of them. -/
theorem fieldValues_replicate_eq_ok {k : FieldKind} {n : Nat} {fs : List Field} {vs : List Nat} :
    fieldValues (List.replicate n k) fs = .ok vs ↔ fs = vs.map k.field ∧ vs.length = n ∧ ∀ v ∈ vs, k.admits v := by
  induction n generalizing fs vs with
  | zero =>
    rw [List.replicate_zero, fieldValues_nil_eq_ok]
    grind
  | succ n ih =>
    rw [List.replicate_succ, fieldValues_cons_eq_ok]
    constructor
    · rintro ⟨v, gs, us, rfl, rfl, hv, hus⟩
      obtain ⟨rfl, rfl, hall⟩ := ih.1 hus
      exact ⟨rfl, rfl, List.forall_mem_cons.2 ⟨hv, hall⟩⟩
    · rintro ⟨rfl, hlen, hall⟩
      obtain ⟨v, us, rfl⟩ := List.exists_cons_of_length_eq_add_one hlen
      obtain ⟨hv, hall⟩ := List.forall_mem_cons.1 hall
      exact ⟨v, us.map k.field, us, rfl, rfl, hv, ih.2 ⟨rfl, by simpa using hlen, hall⟩⟩

/-! ## Bit vectors as fields -/

theorem rawField_ofNat {w v : Nat} (h : v < 2 ^ w) : rawField (BitVec.ofNat w v) = .raw w v := by
  rw [rawField, BitVec.toNat_ofNat, Nat.mod_eq_of_lt h]

theorem alignedField_ofNat {v : Nat} (h : v < 8) : alignedField (BitVec.ofNat 3 v) = .sym .aligned v := by
  rw [alignedField, BitVec.toNat_ofNat, Nat.mod_eq_of_lt h]

theorem rawLengths_admitted {w n : Nat} (a : Vector (BitVec w) n) :
    (a.toList.map BitVec.toNat).length = n ∧ ∀ v ∈ a.toList.map BitVec.toNat, v < 2 ^ w :=
  ⟨by simp, List.forall_mem_map.2 fun b _ => b.isLt⟩

theorem map_rawField_eq {w n : Nat} (a : Vector (BitVec w) n) :
    a.toList.map rawField = (a.toList.map BitVec.toNat).map (Field.raw w) := by
  rw [List.map_map]
  rfl

/-- A vector read back from the values of its entries. -/
theorem ofFn_getD_toNat {w n : Nat} (a : Vector (BitVec w) n) :
    (Vector.ofFn fun i : Fin n => BitVec.ofNat w ((a.toList.map BitVec.toNat).getD i 0)) = a := by
  ext i hi
  simp [List.getD_eq_getElem?_getD]

/-- The values of a vector made of numbers that fit its entries. -/
theorem toList_map_rawField_ofFn {w n : Nat} {vs : List Nat} (hlen : vs.length = n) (h : ∀ v ∈ vs, v < 2 ^ w) :
    (Vector.ofFn fun i : Fin n => BitVec.ofNat w (vs.getD i 0)).toList.map rawField = vs.map (Field.raw w) := by
  apply List.ext_getElem
  · simp [hlen]
  · intro i h1 h2
    have hi : i < vs.length := by simpa using h2
    simp [List.getD_eq_getElem?_getD, hi, rawField_ofNat (h _ (List.getElem_mem hi))]

/-! ## The plan and the match of a main symbol -/

theorem mainPlan_literal {aligned : Bool} {mode : Extra3Mode} {m : Nat} (h : m < 256) :
    mainPlan aligned mode m = [] := if_pos h

/-- The fields after the main symbol of a match: the footer if the length header is 7, then the offset fields. -/
theorem mainPlan_match {aligned : Bool} {mode : Extra3Mode} {slot : Nat} {lh : BitVec 3} :
    mainPlan aligned mode (256 + 8 * slot + lh.toNat) =
      (if lh = 7 then [.sym .length] else []) ++ offsetPlan aligned mode slot := by
  have hlh := lh.isLt
  have h7 : lh = 7 ↔ lh.toNat = 7 := by rw [← BitVec.toNat_inj]; rfl
  rw [mainPlan, if_neg (by omega), show (256 + 8 * slot + lh.toNat) % 8 = lh.toNat by omega,
    show (256 + 8 * slot + lh.toNat - 256) / 8 = slot by omega]
  simp only [h7]

theorem mainInstr_literal {aligned : Bool} {m : Nat} {vs : List Nat} (h : m < 256) :
    mainInstr aligned m vs = some (.lit (BitVec.ofNat 8 m)) := if_pos h

theorem mainInstr_match {aligned : Bool} {slot : Nat} {lh : BitVec 3} {vs : List Nat} :
    mainInstr aligned (256 + 8 * slot + lh.toNat) vs =
      if lh = 7 then slotMatch aligned slot lh (some (BitVec.ofNat 8 (vs.headD 0))) vs.tail
      else slotMatch aligned slot lh none vs := by
  have hlh := lh.isLt
  rw [mainInstr, if_neg (by omega), show (256 + 8 * slot + lh.toNat) % 8 = lh.toNat by omega,
    show (256 + 8 * slot + lh.toNat - 256) / 8 = slot by omega]
  by_cases h : lh = 7
  · subst h
    rfl
  · have h7 : lh.toNat ≠ 7 := fun h7 => h (BitVec.eq_of_toNat_eq h7)
    rw [if_neg h, if_neg h7, BitVec.ofNat_toNat, BitVec.setWidth_eq]

/-- Every coded main symbol is a literal, or has a slot and a length header. -/
theorem mainSymbol_cases {m : Nat} (h : m < 512) :
    m < 256 ∨ ∃ slot, ∃ lh : BitVec 3, slot < 32 ∧ m = 256 + 8 * slot + lh.toNat := by
  by_cases hm : m < 256
  · exact .inl hm
  · refine .inr ⟨(m - 256) / 8, BitVec.ofNat 3 (m % 8), by omega, ?_⟩
    rw [BitVec.toNat_ofNat]
    omega

theorem footerWellFormed_none {lh : BitVec 3} : footerWellFormed lh none = true ↔ lh ≠ 7 := by
  simp [footerWellFormed]

theorem footerWellFormed_some {lh : BitVec 3} {f : BitVec 8} :
    footerWellFormed lh (some f) = true ↔ lh = 7 ∧ f.toNat < 249 := by
  simp [footerWellFormed, Nat.lt_succ_iff]

/-! ## What the decoder accepts in each place -/

section
variable {fields : List Field} {i : Instr} {fmt : Format} {f : List Nat → Instr}

/-- A place whose element is a function of the values of the fields it asks for. -/
theorem decode_eq_ok_of_map {ks : List FieldKind}
    (hplace : ∀ fs, decode (.element fmt fs) = (fieldValues ks fs).map f) :
    decode (.element fmt fields) = .ok i ↔ ∃ vs, fieldValues ks fields = .ok vs ∧ f vs = i := by
  rw [hplace]
  cases fieldValues ks fields <;> simp [Except.map]

/-- A place of no field. -/
theorem decode_eq_ok_of_empty (hplace : ∀ fs, decode (.element fmt fs) = (fieldValues [] fs).map f) :
    decode (.element fmt fields) = .ok i ↔ fields = [] ∧ i = f [] := by
  rw [decode_eq_ok_of_map hplace]
  constructor
  · rintro ⟨vs, hvs, rfl⟩
    obtain ⟨rfl, rfl⟩ := fieldValues_nil_eq_ok.1 hvs
    exact ⟨rfl, rfl⟩
  · rintro ⟨rfl, rfl⟩
    exact ⟨[], rfl, rfl⟩

/-- A place of one field. -/
theorem decode_eq_ok_of_single {k : FieldKind}
    (hplace : ∀ fs, decode (.element fmt fs) = (fieldValues [k] fs).map f) :
    decode (.element fmt fields) = .ok i ↔ ∃ v, k.admits v ∧ fields = [k.field v] ∧ i = f [v] := by
  rw [decode_eq_ok_of_map hplace]
  constructor
  · rintro ⟨vs, hvs, rfl⟩
    obtain ⟨v, rfl, rfl, hv⟩ := fieldValues_singleton_eq_ok.1 hvs
    exact ⟨v, hv, rfl, rfl⟩
  · rintro ⟨v, hv, rfl, rfl⟩
    exact ⟨_, fieldValues_singleton_eq_ok.2 ⟨v, rfl, rfl, hv⟩, rfl⟩

/-- A place of three fields. -/
theorem decode_eq_ok_of_triple {k l m : FieldKind}
    (hplace : ∀ fs, decode (.element fmt fs) = (fieldValues [k, l, m] fs).map f) :
    decode (.element fmt fields) = .ok i ↔ ∃ v u x, (k.admits v ∧ l.admits u ∧ m.admits x) ∧
      fields = [k.field v, l.field u, m.field x] ∧ i = f [v, u, x] := by
  rw [decode_eq_ok_of_map hplace]
  constructor
  · rintro ⟨vs, hvs, rfl⟩
    obtain ⟨v, u, x, rfl, rfl, hv⟩ := fieldValues_triple_eq_ok.1 hvs
    exact ⟨v, u, x, hv, rfl, rfl⟩
  · rintro ⟨v, u, x, hv, rfl, rfl⟩
    exact ⟨_, fieldValues_triple_eq_ok.2 ⟨v, u, x, rfl, rfl, hv⟩, rfl⟩

/-- A place of equal fields. -/
theorem decode_eq_ok_of_replicate {n : Nat} {k : FieldKind}
    (hplace : ∀ fs, decode (.element fmt fs) = (fieldValues (List.replicate n k) fs).map f) :
    decode (.element fmt fields) = .ok i ↔
      ∃ vs, (vs.length = n ∧ ∀ v ∈ vs, k.admits v) ∧ fields = vs.map k.field ∧ i = f vs := by
  rw [decode_eq_ok_of_map hplace]
  constructor
  · rintro ⟨vs, hvs, rfl⟩
    obtain ⟨rfl, hall⟩ := fieldValues_replicate_eq_ok.1 hvs
    exact ⟨vs, hall, rfl, rfl⟩
  · rintro ⟨vs, hall, rfl, rfl⟩
    exact ⟨_, fieldValues_replicate_eq_ok.2 ⟨rfl, hall⟩, rfl⟩

theorem decode_transform_eq_ok :
    decode (.element .transform fields) = .ok i ↔
      ∃ v, v < 2 ^ 1 ∧ fields = [.raw 1 v] ∧ i = .transform (BitVec.ofNat 1 v) :=
  (decode_eq_ok_of_single (fmt := .transform) (k := .raw 1) fun _ => rfl :)

theorem decode_align_eq_ok : decode (.element .align fields) = .ok i ↔ fields = [] ∧ i = .streamAlign :=
  (decode_eq_ok_of_empty (fmt := .align) fun _ => rfl :)

theorem decode_uncompBytes_eq_ok : decode (.element .uncompBytes fields) = .ok i ↔ fields = [] ∧ i = .uncompBytes :=
  (decode_eq_ok_of_empty (fmt := .uncompBytes) fun _ => rfl :)

theorem decode_lengthFooter_eq_ok :
    decode (.element .lengthFooter fields) = .ok i ↔
      ∃ v, v < 249 ∧ fields = [.sym .length v] ∧ i = .lenFoot (BitVec.ofNat 8 v) :=
  (decode_eq_ok_of_single (fmt := .lengthFooter) (k := .sym .length) fun _ => rfl :)

theorem decode_alignedSymbol_eq_ok :
    decode (.element .alignedSymbol fields) = .ok i ↔
      ∃ v, v < 2 ^ 3 ∧ fields = [.sym .aligned v] ∧ i = .alignSym (BitVec.ofNat 3 v) :=
  (decode_eq_ok_of_single (fmt := .alignedSymbol) (k := .sym .aligned) fun _ => rfl :)

theorem decode_blockHeader_eq_ok :
    decode (.element .blockHeader fields) = .ok i ↔
      ∃ type hi lo, (type < 2 ^ 3 ∧ hi < 2 ^ 16 ∧ lo < 2 ^ 8) ∧ fields = [.raw 3 type, .raw 16 hi, .raw 8 lo] ∧
        i = blockInstr type (BitVec.ofNat 24 (hi * 256 + lo)) :=
  (decode_eq_ok_of_triple (fmt := .blockHeader) (k := .raw 3) (l := .raw 16) (m := .raw 8) fun _ => rfl :)

theorem decode_uncompReps_eq_ok :
    decode (.element .uncompReps fields) = .ok i ↔
      ∃ r0 r1 r2, (r0 < 2 ^ 32 ∧ r1 < 2 ^ 32 ∧ r2 < 2 ^ 32) ∧ fields = [.raw 32 r0, .raw 32 r1, .raw 32 r2] ∧
        i = .uncompReps (BitVec.ofNat 32 r0) (BitVec.ofNat 32 r1) (BitVec.ofNat 32 r2) :=
  (decode_eq_ok_of_triple (fmt := .uncompReps) (k := .raw 32) (l := .raw 32) (m := .raw 32) fun _ => rfl :)

theorem decode_alignedLengths_eq_ok :
    decode (.element .alignedLengths fields) = .ok i ↔
      ∃ vs : List Nat, (vs.length = 8 ∧ ∀ v ∈ vs, v < 2 ^ 3) ∧ fields = vs.map (.raw 3) ∧
        i = .alignedLengths (Vector.ofFn fun j : Fin 8 => BitVec.ofNat 3 (vs.getD j 0)) :=
  (decode_eq_ok_of_replicate (fmt := .alignedLengths) (n := 8) (k := .raw 3) fun _ => rfl :)

theorem decode_pretree_eq_ok :
    decode (.element .pretree fields) = .ok i ↔
      ∃ vs : List Nat, (vs.length = 20 ∧ ∀ v ∈ vs, v < 2 ^ 4) ∧ fields = vs.map (.raw 4) ∧
        i = .pretree (Vector.ofFn fun j : Fin 20 => BitVec.ofNat 4 (vs.getD j 0)) :=
  (decode_eq_ok_of_replicate (fmt := .pretree) (n := 20) (k := .raw 4) fun _ => rfl :)

/-- The two forms of a chunk header, which its first byte tells apart (30_encoding.md R71). -/
theorem decode_chunkHeader_eq_ok :
    decode (.element .chunkHeader fields) = .ok i ↔
      (∃ bs, (bs < 2 ^ 16 ∧ bs / 256 ≠ 0xFF) ∧ fields = [.raw 16 bs] ∧ i = .frmImplicit (BitVec.ofNat 16 bs)) ∨
      ∃ fs bs, (fs < 2 ^ 16 ∧ bs < 2 ^ 16) ∧ fields = [.raw 8 0xFF, .raw 16 fs, .raw 16 bs] ∧
        i = .frmExplicit (BitVec.ofNat 16 fs) (BitVec.ofNat 16 bs) := by
  constructor
  · intro h
    simp only [decode, decodeElement, chunkInstr] at h
    split at h
    · split at h
      · cases h
      next hvs =>
        obtain ⟨bs, hf, rfl, hbs⟩ := fieldValues_singleton_eq_ok.1 hvs
        split_ifs at h with hff
        cases h
        exact .inl ⟨bs, ⟨hbs, hff⟩, hf, rfl⟩
    · split at h
      · cases h
      next hvs =>
        obtain ⟨c, fs, bs, hf, rfl, -, hfs, hbs⟩ := fieldValues_triple_eq_ok.1 hvs
        split_ifs at h with hff
        cases h
        cases hff
        exact .inr ⟨fs, bs, ⟨hfs, hbs⟩, hf, rfl⟩
  · rintro (⟨bs, ⟨hbs, hff⟩, rfl, rfl⟩ | ⟨fs, bs, ⟨hfs, hbs⟩, rfl, rfl⟩)
    · have hvs : fieldValues [.raw 16] [.raw 16 bs] = .ok [bs] := fieldValues_singleton_eq_ok.2 ⟨_, rfl, rfl, hbs⟩
      simp [decode, decodeElement, chunkInstr, hvs, hff]
    · have hvs : fieldValues [.raw 8, .raw 16, .raw 16] [.raw 8 0xFF, .raw 16 fs, .raw 16 bs] = .ok [0xFF, fs, bs] :=
        fieldValues_triple_eq_ok.2 ⟨_, _, _, rfl, rfl, show 0xFF < 2 ^ 8 by decide, hfs, hbs⟩
      simp [decode, decodeElement, chunkInstr, hvs]

/-- All that the decoder accepts as a main-tree element (30_encoding.md R78). -/
theorem decode_mainItem_eq_ok {aligned : Bool} {mode : Extra3Mode} :
    decode (.element (.mainItem aligned mode) fields) = .ok i ↔
      ∃ m rest vs, fields = .sym .main m :: rest ∧ m < 512 ∧ fieldValues (mainPlan aligned mode m) rest = .ok vs ∧
        mainInstr aligned m vs = some i := by
  constructor
  · intro h
    simp only [decode, decodeElement] at h
    split at h
    case h_1 x m rest =>
      split at h
      · cases h
      next n hn =>
        obtain ⟨hf, hm⟩ := fieldValue_eq_ok.1 hn
        cases hf
        split at h
        · cases h
        next vs hvs =>
          split at h
          next hi =>
            cases h
            exact ⟨m, rest, vs, rfl, hm, hvs, hi⟩
          · cases h
    all_goals cases h
  · rintro ⟨m, rest, vs, rfl, hm, hvs, hi⟩
    have hsym : fieldValue (.sym .main) (.sym .main m) = .ok m := fieldValue_eq_ok.2 ⟨rfl, hm⟩
    simp only [decode, decodeElement, hsym, hvs, hi]

/-- All that the decoder accepts as a pretree item (30_encoding.md R77). -/
theorem decode_pretreeItem_eq_ok :
    decode (.element .pretreeItem fields) = .ok i ↔
      ∃ m rest vs, fields = .sym .pretree m :: rest ∧ m < 20 ∧ fieldValues (pretreePlan m) rest = .ok vs ∧
        pretreeInstr m vs = i := by
  constructor
  · intro h
    simp only [decode, decodeElement] at h
    split at h
    case h_1 x m rest =>
      split at h
      · cases h
      next n hn =>
        obtain ⟨hf, hm⟩ := fieldValue_eq_ok.1 hn
        cases hf
        cases hvs : fieldValues (pretreePlan m) rest with
        | error e =>
          rw [hvs] at h
          cases h
        | ok vs =>
          rw [hvs] at h
          cases h
          exact ⟨m, rest, vs, rfl, hm, hvs, rfl⟩
    all_goals cases h
  · rintro ⟨m, rest, vs, rfl, hm, hvs, rfl⟩
    have hsym : fieldValue (.sym .pretree) (.sym .pretree m) = .ok m := fieldValue_eq_ok.2 ⟨rfl, hm⟩
    simp only [decode, decodeElement, hsym, hvs]
    rfl

end

/-! ## O3: the decoder inverts the encoder -/

/-- The code of a match decodes to the match of its slot, header, footer and offset values. -/
theorem decode_matchCode {aligned : Bool} {mode : Extra3Mode} {slot : Nat} {lh : BitVec 3} {footer : Option (BitVec 8)}
    {fs : List Field} {xs : List Nat} {i : Instr} (hslot : slot < 32) (hw : footerWellFormed lh footer = true)
    (hfs : fieldValues (offsetPlan aligned mode slot) fs = .ok xs) (hi : slotMatch aligned slot lh footer xs = some i) :
    decode (matchCode aligned mode slot lh footer fs) = .ok i := by
  have hlh := lh.isLt
  have hmain : 256 + 8 * slot + lh.toNat < 512 := by omega
  cases footer with
  | none =>
    have h7 := footerWellFormed_none.1 hw
    refine decode_mainItem_eq_ok.2 ⟨_, fs, xs, rfl, hmain, ?_, ?_⟩
    · rw [mainPlan_match, if_neg h7]
      exact hfs
    · rw [mainInstr_match, if_neg h7, hi]
  | some f =>
    obtain ⟨rfl, hf⟩ := footerWellFormed_some.1 hw
    refine decode_mainItem_eq_ok.2 ⟨_, .sym .length f.toNat :: fs, f.toNat :: xs, rfl, hmain, ?_, ?_⟩
    · rw [mainPlan_match]
      exact fieldValues_cons_eq_ok.2 ⟨_, _, _, rfl, rfl, hf, hfs⟩
    · rw [mainInstr_match, if_pos rfl]
      simpa using hi

/-- A match whose one offset field is a bit vector. -/
theorem decode_rawMatchCode {aligned : Bool} {mode : Extra3Mode} {slot w : Nat} {lh : BitVec 3}
    {footer : Option (BitVec 8)} {v : BitVec w} {f : BitVec w → Instr} (hslot : slot < 32)
    (hw : footerWellFormed lh footer = true) (hplan : offsetPlan aligned mode slot = [.raw w])
    (hf : ∀ x, slotMatch aligned slot lh footer [x] = some (f (BitVec.ofNat w x))) :
    decode (matchCode aligned mode slot lh footer [rawField v]) = .ok (f v) :=
  decode_matchCode (xs := [v.toNat]) hslot hw (hplan ▸ fieldValues_singleton_eq_ok.2 ⟨_, rfl, rfl, v.isLt⟩)
    (by simp [hf])

/-- A match whose offset fields are a bit vector and an aligned symbol. -/
theorem decode_rawAlignedMatchCode {mode : Extra3Mode} {slot w : Nat} {lh : BitVec 3} {footer : Option (BitVec 8)}
    {v : BitVec w} {a : BitVec 3} {f : BitVec w → BitVec 3 → Instr} (hslot : slot < 32)
    (hw : footerWellFormed lh footer = true) (hplan : offsetPlan true mode slot = [.raw w, .sym .aligned])
    (hf : ∀ x y, slotMatch true slot lh footer [x, y] = some (f (BitVec.ofNat w x) (BitVec.ofNat 3 y))) :
    decode (matchCode true mode slot lh footer [rawField v, alignedField a]) = .ok (f v a) :=
  decode_matchCode (xs := [v.toNat, a.toNat]) hslot hw
    (hplan ▸ fieldValues_pair_eq_ok.2 ⟨_, _, rfl, rfl, v.isLt, a.isLt⟩) (by simp [hf])

/-- An Aligned match of slot 8 or 9 in either mode. -/
theorem decode_alignedExtra3Code {slot : Nat} {lh : BitVec 3} {footer : Option (BitVec 8)} {v : Option (BitVec 3)}
    {a : BitVec 3} {f : Option (BitVec 3) → BitVec 3 → Instr} (hslot : slot < 32) (hslot4 : ¬slot < 4)
    (hextra : extraBits slot = 3) (hw : footerWellFormed lh footer = true)
    (hnone : ∀ y, slotMatch true slot lh footer [y] = some (f none (BitVec.ofNat 3 y)))
    (hsome : ∀ x y, slotMatch true slot lh footer [x, y] = some (f (some (BitVec.ofNat 3 x)) (BitVec.ofNat 3 y))) :
    decode (alignedExtra3Code slot lh footer v a) = .ok (f v a) := by
  cases v with
  | none =>
    have hplan : offsetPlan true .standard slot = [.sym .aligned] := by simp [offsetPlan, hslot4, hextra]
    exact decode_matchCode (xs := [a.toNat]) hslot hw
      (hplan ▸ fieldValues_singleton_eq_ok.2 ⟨_, rfl, rfl, a.isLt⟩) (by simp [hnone])
  | some v =>
    have hplan : offsetPlan true .sourceLiteral slot = [.raw 3, .sym .aligned] := by simp [offsetPlan, hslot4, hextra]
    exact decode_rawAlignedMatchCode (f := fun v a => f (some v) a) hslot hw hplan hsome

theorem blockInstr_of_ge {type : Nat} (h : 4 ≤ type) (size : BitVec 24) :
    blockInstr type size = .blockInvalid4to7 (BitVec.ofNat 2 (type - 4)) size := by
  rw [blockInstr, if_neg (by omega), if_neg (by omega), if_neg (by omega), if_neg (by omega)]

theorem decode_blockCode {type : Nat} (htype : type < 8) (size : BitVec 24) :
    decode (blockCode type size) = .ok (blockInstr type size) := by
  have hsize := size.isLt
  refine decode_blockHeader_eq_ok.2 ⟨_, _, _, ⟨htype, by omega, by omega⟩, rfl, ?_⟩
  rw [Nat.div_add_mod', BitVec.ofNat_toNat, BitVec.setWidth_eq]

theorem decode_encode_pretreeItem {i : Instr} {m : Nat} {rest : List Field} {vs : List Nat}
    (hcode : encode i = .element .pretreeItem (.sym .pretree m :: rest)) (hm : m < 20)
    (hvs : fieldValues (pretreePlan m) rest = .ok vs) (hi : pretreeInstr m vs = i) : decode (encode i) = .ok i :=
  hcode ▸ decode_pretreeItem_eq_ok.2 ⟨m, rest, vs, rfl, hm, hvs, hi⟩

/-- Settles O3, by cases on the instruction: a record has its operands; an element's fields have the values of its
operands, and from these its place makes the same element. -/
theorem decodeInvertsEncode : Obligations.DecodeInvertsEncode := by
  intro i hw
  cases i with
  | seekAbs | seekRel | readBytes | peekBytes | getPos | regRead | arrayRead | readU8 | readI8 | readU16LE
  | readU16BE | readI16LE | readI16BE | readU32LE | readU32BE | readI32LE | readI32BE | readF32LE | readF32BE
  | readF64LE | readF64BE | read7Bit | readString | readLzxInt16 | readBits | peekBits | setBitPos | align
  | hufBuild | hufDecode | lzxReset | lzxDecompress | frmRun | load | reset => rfl
  | illegal op => exact congrArg _ (decodeCommand_illegal (by simpa [Instr.wellFormed] using hw))
  | frmExplicit fs bs => exact decode_chunkHeader_eq_ok.2 (.inr ⟨_, _, ⟨fs.isLt, bs.isLt⟩, rfl, by simp⟩)
  | frmImplicit bs => 
    have hff : bs.toNat / 256 ≠ 0xFF := by simpa [Instr.wellFormed] using hw
    exact decode_chunkHeader_eq_ok.2 (.inl ⟨_, ⟨bs.isLt, hff⟩, rfl, by simp⟩)
  | transform t => exact decode_transform_eq_ok.2 ⟨_, t.isLt, rfl, by simp⟩
  | blockInvalid0 size | blockVerbatim size | blockAligned size | blockUncompressed size =>
    exact decode_blockCode (by decide) size
  | blockInvalid4to7 t size =>
    have ht := t.isLt
    rw [encode, decode_blockCode (by omega), blockInstr_of_ge (by omega), Nat.add_sub_cancel_left, BitVec.ofNat_toNat,
      BitVec.setWidth_eq]
  | alignedLengths a =>
    exact decode_alignedLengths_eq_ok.2 ⟨_, rawLengths_admitted a, map_rawField_eq a, by rw [ofFn_getD_toNat]⟩
  | pretree p =>
    exact decode_pretree_eq_ok.2 ⟨_, rawLengths_admitted p, map_rawField_eq p, by rw [ofFn_getD_toNat]⟩
  | ptDelta s =>
    have hs : s.toNat ≤ 16 := by simpa [Instr.wellFormed] using hw
    refine decode_encode_pretreeItem rfl (by omega) (vs := []) ?_ ?_
    · rw [pretreePlan, if_pos hs]; rfl
    · rw [pretreeInstr, if_pos hs]; simp
  | ptZ4 z | ptZ20 z =>
    exact decode_encode_pretreeItem rfl (by decide) (fieldValues_singleton_eq_ok.2 ⟨_, rfl, rfl, z.isLt⟩)
      (by simp [pretreeInstr])
  | ptSame z s2 =>
    have hs : s2.toNat ≤ 19 := by simpa [Instr.wellFormed] using hw
    exact decode_encode_pretreeItem rfl (by decide)
      (fieldValues_pair_eq_ok.2 ⟨_, _, rfl, rfl, z.isLt, Nat.lt_succ_of_le hs⟩) (by simp [pretreeInstr])
  | lit c =>
    have hc := c.isLt
    have hplan : fieldValues (mainPlan false .standard c.toNat) [] = .ok [] := by rw [mainPlan_literal hc]; rfl
    exact decode_mainItem_eq_ok.2 ⟨_, _, _, rfl, by omega, hplan, by simp [mainInstr_literal hc]⟩
  | matchS0 lh footer | matchS1 lh footer | matchS2 lh footer | matchS3 lh footer =>
    exact decode_matchCode (by decide) hw (fieldValues_nil_eq_ok.2 ⟨rfl, rfl⟩) rfl
  | matchVS4 lh footer v | matchVS5 lh footer v | matchVS6 lh footer v | matchVS7 lh footer v
  | matchVS8 lh footer v | matchVS9 lh footer v | matchVS10 lh footer v | matchVS11 lh footer v
  | matchVS12 lh footer v | matchVS13 lh footer v | matchVS14 lh footer v | matchVS15 lh footer v
  | matchVS16 lh footer v | matchVS17 lh footer v | matchVS18 lh footer v | matchVS19 lh footer v
  | matchVS20 lh footer v | matchVS21 lh footer v | matchVS22 lh footer v | matchVS23 lh footer v
  | matchVS24 lh footer v | matchVS25 lh footer v | matchVS26 lh footer v | matchVS27 lh footer v
  | matchVS28 lh footer v | matchVS29 lh footer v | matchVS30 lh footer v | matchVS31 lh footer v =>
    exact decode_rawMatchCode (by decide) hw rfl fun _ => rfl
  | matchAS4 lh footer v | matchAS5 lh footer v | matchAS6 lh footer v | matchAS7 lh footer v =>
    exact decode_rawMatchCode (by decide) hw rfl fun _ => rfl
  | matchAS8 lh footer v a | matchAS9 lh footer v a =>
    exact decode_alignedExtra3Code (by decide) (by decide) rfl hw (fun _ => rfl) fun _ _ => rfl
  | matchAS10 lh footer v a | matchAS11 lh footer v a | matchAS12 lh footer v a | matchAS13 lh footer v a
  | matchAS14 lh footer v a | matchAS15 lh footer v a | matchAS16 lh footer v a | matchAS17 lh footer v a
  | matchAS18 lh footer v a | matchAS19 lh footer v a | matchAS20 lh footer v a | matchAS21 lh footer v a
  | matchAS22 lh footer v a | matchAS23 lh footer v a | matchAS24 lh footer v a | matchAS25 lh footer v a
  | matchAS26 lh footer v a | matchAS27 lh footer v a | matchAS28 lh footer v a | matchAS29 lh footer v a
  | matchAS30 lh footer v a | matchAS31 lh footer v a =>
    exact decode_rawAlignedMatchCode (by decide) hw rfl fun _ _ => rfl
  | lenFoot f =>
    have hf : f.toNat ≤ 248 := by simpa [Instr.wellFormed] using hw
    exact decode_lengthFooter_eq_ok.2 ⟨_, Nat.lt_succ_of_le hf, rfl, by simp⟩
  | alignSym a => exact decode_alignedSymbol_eq_ok.2 ⟨_, a.isLt, rfl, by simp⟩
  | streamAlign | uncompBytes => rfl
  | uncompReps r0 r1 r2 =>
    exact decode_uncompReps_eq_ok.2 ⟨_, _, _, ⟨r0.isLt, r1.isLt, r2.isLt⟩, rfl, by simp⟩

/-! ## O4: an element's own code has the fields it was decoded from -/

section
variable {slot : Nat} {lh : BitVec 3} {footer : Option (BitVec 8)} {i : Instr}

/-- The match of a slot in a Verbatim block has one offset field, which is in its code. -/
theorem encode_verbatimMatch {v : Nat} (h : verbatimMatch slot lh footer v = some i) (hv : v < 2 ^ extraBits slot) :
    i.wellFormed = footerWellFormed lh footer ∧
      encode i = matchCode false .standard slot lh footer [.raw (extraBits slot) v] := by
  unfold verbatimMatch at h
  split at h <;> cases h
  all_goals exact ⟨rfl, congrArg (fun f => matchCode _ _ _ lh footer [f]) (rawField_ofNat hv)⟩

/-- The match of a slot in an Aligned block has its offset fields in its code: a raw field for the slots 4 to 7, the
fields of either mode for 8 and 9, a raw field and an aligned symbol from slot 10 on. -/
theorem encode_alignedMatch {mode : Extra3Mode} {fs : List Field} {xs : List Nat}
    (h : alignedMatch slot lh footer xs = some i) (hfs : fieldValues (offsetPlan true mode slot) fs = .ok xs) :
    i.wellFormed = footerWellFormed lh footer ∧ ∃ mode', encode i = matchCode true mode' slot lh footer fs := by
  unfold alignedMatch at h
  split at h <;> cases h
  case h_1 | h_2 | h_3 | h_4 =>
    obtain ⟨v, rfl, hxs, hv⟩ := fieldValues_singleton_eq_ok.1 hfs
    cases hxs
    exact ⟨rfl, .standard, congrArg (fun f => matchCode _ _ _ lh footer [f]) (rawField_ofNat hv)⟩
  case h_5 | h_7 =>
    cases mode with
    | standard =>
      obtain ⟨a, rfl, hxs, ha⟩ := fieldValues_singleton_eq_ok.1 hfs
      cases hxs
      exact ⟨rfl, .standard, congrArg (fun f => matchCode _ _ _ lh footer [f]) (alignedField_ofNat ha)⟩
    | sourceLiteral =>
      obtain ⟨v, a, -, hxs, -⟩ := fieldValues_pair_eq_ok.1 hfs
      cases hxs
  case h_6 | h_8 =>
    cases mode with
    | standard =>
      obtain ⟨a, -, hxs, -⟩ := fieldValues_singleton_eq_ok.1 hfs
      cases hxs
    | sourceLiteral =>
      obtain ⟨v, a, rfl, hxs, hv, ha⟩ := fieldValues_pair_eq_ok.1 hfs
      cases hxs
      exact ⟨rfl, .sourceLiteral, congrArg₂ (fun f g => matchCode _ _ _ lh footer [f, g]) (rawField_ofNat hv)
        (alignedField_ofNat ha)⟩
  all_goals
    obtain ⟨v, a, rfl, hxs, hv, ha⟩ := fieldValues_pair_eq_ok.1 hfs
    cases hxs
    exact ⟨rfl, .standard, congrArg₂ (fun f g => matchCode _ _ _ lh footer [f, g]) (rawField_ofNat hv)
      (alignedField_ofNat ha)⟩

/-- The slots 0 to 3 have no offset field. -/
theorem encode_slotMatch {aligned : Bool} {mode : Extra3Mode} {fs : List Field} {xs : List Nat}
    (h : slotMatch aligned slot lh footer xs = some i) (hfs : fieldValues (offsetPlan aligned mode slot) fs = .ok xs) :
    i.wellFormed = footerWellFormed lh footer ∧
      ∃ aligned' mode', encode i = matchCode aligned' mode' slot lh footer fs := by
  unfold slotMatch at h
  split at h
  case h_5 h0 h1 h2 h3 =>
    cases aligned with
    | true =>
      obtain ⟨hw, mode', he⟩ := encode_alignedMatch h hfs
      exact ⟨hw, true, mode', he⟩
    | false =>
      have hslot : ¬slot < 4 := fun hlt => by interval_cases slot <;> contradiction
      simp only [offsetPlan, hslot, if_false, Bool.not_false, if_true] at hfs
      obtain ⟨v, rfl, rfl, hv⟩ := fieldValues_singleton_eq_ok.1 hfs
      obtain ⟨hw, he⟩ := encode_verbatimMatch h hv
      exact ⟨hw, false, .standard, he⟩
  all_goals
    obtain ⟨rfl, -⟩ := fieldValues_nil_eq_ok.1 hfs
    cases h
    exact ⟨rfl, false, .standard, rfl⟩

end

section
variable {fields : List Field} {i : Instr}

/-- What O4 says of an element and the fields it was decoded from. -/
def HasFields (i : Instr) (fields : List Field) : Prop :=
  i.wellFormed = true ∧ ∃ fmt, encode i = .element fmt fields

theorem hasFields_of_mainItem {aligned : Bool} {mode : Extra3Mode}
    (h : decode (.element (.mainItem aligned mode) fields) = .ok i) : HasFields i fields := by
  obtain ⟨m, rest, vs, rfl, hm, hvs, hi⟩ := decode_mainItem_eq_ok.1 h
  rcases mainSymbol_cases hm with hlit | ⟨slot, lh, -, rfl⟩
  · rw [mainPlan_literal hlit] at hvs
    obtain ⟨rfl, -⟩ := fieldValues_nil_eq_ok.1 hvs
    rw [mainInstr_literal hlit] at hi
    cases hi
    exact ⟨rfl, _, by rw [encode, BitVec.toNat_ofNat, Nat.mod_eq_of_lt hlit]⟩
  · rw [mainPlan_match] at hvs
    rw [mainInstr_match] at hi
    by_cases h7 : lh = 7
    · subst h7
      obtain ⟨f, fs, xs, rfl, rfl, hf, hxs⟩ := fieldValues_cons_eq_ok.1 hvs
      have hf8 : (BitVec.ofNat 8 f).toNat = f := by
        rw [BitVec.toNat_ofNat]
        exact Nat.mod_eq_of_lt (Nat.lt_trans hf (by decide))
      obtain ⟨hw, aligned', mode', he⟩ := encode_slotMatch hi hxs
      rw [List.headD_cons] at hw he
      have hf249 : (BitVec.ofNat 8 f).toNat < 249 := by rw [hf8]; exact hf
      refine ⟨hw.trans (footerWellFormed_some.2 ⟨rfl, hf249⟩), .mainItem aligned' mode', ?_⟩
      rw [he, matchCode, hf8]
      rfl
    · rw [if_neg h7] at hi
      rw [if_neg h7, List.nil_append] at hvs
      obtain ⟨hw, aligned', mode', he⟩ := encode_slotMatch hi hvs
      exact ⟨hw.trans (footerWellFormed_none.2 h7), .mainItem aligned' mode', he⟩

theorem hasFields_of_pretreeItem (h : decode (.element .pretreeItem fields) = .ok i) : HasFields i fields := by
  obtain ⟨m, rest, vs, rfl, hm, hvs, rfl⟩ := decode_pretreeItem_eq_ok.1 h
  unfold pretreePlan at hvs
  unfold pretreeInstr
  split_ifs at hvs ⊢ with h16 h17 h18
  · obtain ⟨rfl, -⟩ := fieldValues_nil_eq_ok.1 hvs
    have hm5 : (BitVec.ofNat 5 m).toNat = m := by rw [BitVec.toNat_ofNat]; omega
    exact ⟨by simp only [Instr.wellFormed, hm5, decide_eq_true h16], .pretreeItem, by rw [encode, hm5]⟩
  · obtain ⟨z, rfl, rfl, hz⟩ := fieldValues_singleton_eq_ok.1 hvs
    exact ⟨rfl, .pretreeItem, by rw [encode, List.headD_cons, rawField_ofNat hz, h17]; rfl⟩
  · obtain ⟨z, rfl, rfl, hz⟩ := fieldValues_singleton_eq_ok.1 hvs
    exact ⟨rfl, .pretreeItem, by rw [encode, List.headD_cons, rawField_ofNat hz, h18]; rfl⟩
  · obtain ⟨z, s2, rfl, rfl, hz, hs⟩ := fieldValues_pair_eq_ok.1 hvs
    have hs20 : s2 < 20 := hs
    have hs5 : (BitVec.ofNat 5 s2).toNat = s2 := by rw [BitVec.toNat_ofNat]; omega
    have hm19 : m = 19 := by omega
    simp only [List.headD_cons, List.tail_cons]
    refine ⟨?_, .pretreeItem, ?_⟩
    · simp only [Instr.wellFormed, hs5, decide_eq_true (Nat.le_of_lt_succ hs20)]
    · rw [encode, rawField_ofNat hz, hs5, hm19]
      rfl

theorem hasFields_of_blockHeader (h : decode (.element .blockHeader fields) = .ok i) : HasFields i fields := by
  obtain ⟨type, hi, lo, ⟨htype, hhi, hlo⟩, rfl, rfl⟩ := decode_blockHeader_eq_ok.1 h
  have hsize : (BitVec.ofNat 24 (hi * 256 + lo)).toNat = hi * 256 + lo := by rw [BitVec.toNat_ofNat]; omega
  have hcode : blockCode type (BitVec.ofNat 24 (hi * 256 + lo)) =
      .element .blockHeader [.raw 3 type, .raw 16 hi, .raw 8 lo] := by
    rw [blockCode, hsize, show (hi * 256 + lo) / 256 = hi by omega, show (hi * 256 + lo) % 256 = lo by omega]
  by_cases h4 : 4 ≤ type
  · have ht : 4 + (BitVec.ofNat 2 (type - 4)).toNat = type := by rw [BitVec.toNat_ofNat]; omega
    rw [blockInstr_of_ge h4]
    exact ⟨rfl, .blockHeader, by rw [encode, ht, hcode]⟩
  · interval_cases type
    all_goals exact ⟨rfl, .blockHeader, hcode⟩

theorem hasFields_of_chunkHeader (h : decode (.element .chunkHeader fields) = .ok i) : HasFields i fields := by
  rcases decode_chunkHeader_eq_ok.1 h with ⟨bs, ⟨hbs, hff⟩, rfl, rfl⟩ | ⟨fs, bs, ⟨hfs, hbs⟩, rfl, rfl⟩
  · have h16 : (BitVec.ofNat 16 bs).toNat = bs := by rw [BitVec.toNat_ofNat, Nat.mod_eq_of_lt hbs]
    exact ⟨by simp [Instr.wellFormed, h16, hff], .chunkHeader, by rw [encode, rawField_ofNat hbs]⟩
  · exact ⟨rfl, .chunkHeader, by rw [encode, rawField_ofNat hfs, rawField_ofNat hbs]⟩

theorem hasFields_of_uncompReps (h : decode (.element .uncompReps fields) = .ok i) : HasFields i fields := by
  obtain ⟨r0, r1, r2, ⟨h0, h1, h2⟩, rfl, rfl⟩ := decode_uncompReps_eq_ok.1 h
  exact ⟨rfl, .uncompReps, by rw [encode, rawField_ofNat h0, rawField_ofNat h1, rawField_ofNat h2]⟩

end

/-- Settles O4, by cases on the place: the decoder tells the fields, and the encoder gives them back. -/
theorem elementDeterminesFields : Obligations.ElementDeterminesFields := by
  intro fmt fields i h
  change HasFields i fields
  cases fmt with
  | chunkHeader => exact hasFields_of_chunkHeader h
  | transform =>
    obtain ⟨v, hv, rfl, rfl⟩ := decode_transform_eq_ok.1 h
    exact ⟨rfl, .transform, by rw [encode, rawField_ofNat hv]⟩
  | blockHeader => exact hasFields_of_blockHeader h
  | alignedLengths =>
    obtain ⟨vs, ⟨hlen, hall⟩, rfl, rfl⟩ := decode_alignedLengths_eq_ok.1 h
    exact ⟨rfl, .alignedLengths, by rw [encode, toList_map_rawField_ofFn hlen hall]⟩
  | pretree =>
    obtain ⟨vs, ⟨hlen, hall⟩, rfl, rfl⟩ := decode_pretree_eq_ok.1 h
    exact ⟨rfl, .pretree, by rw [encode, toList_map_rawField_ofFn hlen hall]⟩
  | pretreeItem => exact hasFields_of_pretreeItem h
  | mainItem aligned mode => exact hasFields_of_mainItem h
  | lengthFooter =>
    obtain ⟨v, hv, rfl, rfl⟩ := decode_lengthFooter_eq_ok.1 h
    have hv8 : (BitVec.ofNat 8 v).toNat = v := by rw [BitVec.toNat_ofNat]; omega
    have hw : (Instr.lenFoot (BitVec.ofNat 8 v)).wellFormed = true := by
      simp only [Instr.wellFormed, hv8, decide_eq_true (Nat.le_of_lt_succ hv)]
    exact ⟨hw, .lengthFooter, by rw [encode, hv8]⟩
  | alignedSymbol =>
    obtain ⟨v, hv, rfl, rfl⟩ := decode_alignedSymbol_eq_ok.1 h
    exact ⟨rfl, .alignedSymbol, by rw [encode, alignedField_ofNat hv]⟩
  | uncompReps => exact hasFields_of_uncompReps h
  | align =>
    obtain ⟨rfl, rfl⟩ := decode_align_eq_ok.1 h
    exact ⟨rfl, .align, rfl⟩
  | uncompBytes =>
    obtain ⟨rfl, rfl⟩ := decode_uncompBytes_eq_ok.1 h
    exact ⟨rfl, .uncompBytes, rfl⟩

/-! ## Codes written out, and the illegal opcodes -/

/-- Settles O1: the decoder evaluated on each of these codes. -/
theorem writtenCodesDecode : Obligations.WrittenCodesDecode :=
  ⟨rfl, rfl, rfl, rfl, rfl, rfl, rfl, rfl, rfl, rfl, rfl, rfl, rfl⟩

/-- The ranges of 30_encoding.md R69 are the opcodes that R68 leaves out. -/
theorem illegalRange_iff : ∀ op : BitVec 8,
    (op.toNat = 0 ∨ (0x08 ≤ op.toNat ∧ op.toNat ≤ 0x0F) ∨ (0x1E ≤ op.toNat ∧ op.toNat ≤ 0x1F) ∨
      (0x23 ≤ op.toNat ∧ op.toNat ≤ 0x2F) ∨ (0x34 ≤ op.toNat ∧ op.toNat ≤ 0x3F) ∨
      (0x42 ≤ op.toNat ∧ op.toNat ≤ 0x4F) ∨ (0x52 ≤ op.toNat ∧ op.toNat ≤ 0x5F) ∨
      (0x61 ≤ op.toNat ∧ op.toNat ≤ 0x6F) ∨ (0x71 ≤ op.toNat ∧ op.toNat ≤ 0x7E) ∨
      (0x80 ≤ op.toNat ∧ op.toNat ≤ 0xFF)) ↔ op ∉ legalOpcodes := by
  decide +kernel

/-- A record of a legal opcode is the command of that opcode. -/
theorem not_mem_legalOpcodes_of_illegal {c : Command} {op : BitVec 8} (h : decodeCommand c = .illegal op) :
    c.opcode ∉ legalOpcodes := by
  unfold decodeCommand at h
  split at h
  case h_36 => simp_all [legalOpcodes]
  all_goals cases h

theorem exec_illegal {s : Machine.State} (hs : s.faulted = false) (op : BitVec 8) :
    Machine.exec (.illegal op) s = .next (Safety.faulting op .illegalOpcode s) :=
  Machine.command_of_raise hs rfl

/-- Settles O2: the opcodes of the ranges are those outside the map, and such a command raises before it does
anything. -/
theorem illegalOpcodesFault : Obligations.IllegalOpcodesFault := by
  intro c s
  have hrange := illegalRange_iff c.opcode
  refine ⟨?_, ?_, fun hs => exec_illegal hs c.opcode⟩
  · exact hrange.trans ⟨decodeCommand_illegal, not_mem_legalOpcodes_of_illegal⟩
  · rintro ⟨op, hop⟩
    exact hrange.2 (not_mem_legalOpcodes_of_illegal hop)

/-! ## O6: the offsets of the slots -/

/-- The slots below `n` cover the numbers below POSITION_BASE[n]. -/
theorem exists_slot {n x : Nat} (h : x < positionBase n) :
    ∃ slot v, slot < n ∧ v < 2 ^ extraBits slot ∧ x = positionBase slot + v := by
  induction n with
  | zero => cases h
  | succ n ih =>
    by_cases hx : x < positionBase n
    · obtain ⟨slot, v, hslot, hv, rfl⟩ := ih hx
      exact ⟨slot, v, Nat.lt_succ_of_lt hslot, hv, rfl⟩
    · rw [positionBase] at h
      exact ⟨n, x - positionBase n, Nat.lt_succ_self n, by omega, by omega⟩

theorem positionBase_mono : Monotone positionBase :=
  monotone_nat_of_le_succ fun _ => Nat.le_add_right _ _

/-- The numbers of a slot end where those of a later slot begin. -/
theorem lt_positionBase_of_lt {slot slot' v : Nat} (h : slot < slot') (hv : v < 2 ^ extraBits slot) :
    positionBase slot + v < positionBase slot' :=
  calc positionBase slot + v < positionBase (slot + 1) := Nat.add_lt_add_left hv _
    _ ≤ positionBase slot' := positionBase_mono h

theorem slot_unique {slot slot' v v' : Nat} (hv : v < 2 ^ extraBits slot) (hv' : v' < 2 ^ extraBits slot')
    (h : positionBase slot + v = positionBase slot' + v') : slot' = slot ∧ v' = v := by
  rcases Nat.lt_trichotomy slot slot' with hlt | rfl | hlt
  · have := lt_positionBase_of_lt hlt hv
    omega
  · exact ⟨rfl, by omega⟩
  · have := lt_positionBase_of_lt hlt hv'
    omega

/-- Settles O6: the slots' numbers follow one another without a gap, from POSITION_BASE[3] = 3 to
POSITION_BASE[32] = 65536. -/
theorem slotsPartitionOffsets : Obligations.SlotsPartitionOffsets := by
  have hfirst : positionBase 3 = 3 := by decide
  have hend : positionBase 32 = 65536 := by decide
  refine ⟨fun d hd1 hd2 => ?_, fun slot v hslot3 hslot hv => ?_⟩
  · obtain ⟨slot, v, hslot, hv, hx⟩ := exists_slot (n := 32) (x := d + 2) (by omega)
    have hslot3 : 3 ≤ slot := by
      by_contra hlt
      have := lt_positionBase_of_lt (Nat.not_le.1 hlt) hv
      omega
    exact ⟨slot, v, ⟨hslot3, hslot⟩, hv, hx, fun slot' v' _ _ hv' hx' => slot_unique hv hv' (hx.symm.trans hx')⟩
  · have hlow := positionBase_mono hslot3
    have hhigh := lt_positionBase_of_lt hslot hv
    omega

end Sys2Proof

namespace Sys2Proof.Machine

open Sys2Proof.Safety

/-! ## O36: the canonical code -/

section
variable {lens : List Nat} {a b m n : Nat}

/-- Before a code that does not begin at 0 there is a code: the one that holds the position just before it. -/
theorem exists_code_before (ha : lens.getD a 0 = m + 1) (hm : m < 16) {w : Nat} (hw : w < codeStart lens a) :
    ∃ c k, lens.getD c 0 = k + 1 ∧ codeStart lens c ≤ w ∧ w < codeStart lens c + 2 ^ (15 - k) := by
  have hend := codeEnd_le ha
  have hmono := kraft_mono (show m + 1 ≤ 16 by omega) lens
  have hpos := Nat.two_pow_pos (15 - m)
  obtain ⟨c, k, -, hc, hle, hlt⟩ := exists_code lens 16 w (by omega)
  exact ⟨c, k, hc, hle, hlt⟩

/-- The order of (length, symbol) is that of the places in the code space. -/
theorem before_of_codes_lt (ha : lens.getD a 0 = m + 1) (hb : lens.getD b 0 = n + 1)
    (h : codeStart lens a < codeStart lens b ∨ codeStart lens a + 2 ^ (15 - m) < codeStart lens b + 2 ^ (15 - n)) :
    m < n ∨ m = n ∧ a < b := by
  by_contra hnot
  have ham := Nat.two_pow_pos (15 - m)
  have hbn := Nat.two_pow_pos (15 - n)
  have hba : (n < m ∨ n = m ∧ b < a) ∨ m = n ∧ a = b := by omega
  rcases hba with hba | ⟨rfl, rfl⟩
  · have := codeEnd_le_codeStart hb ha hba
    omega
  · omega

end

/-- Settles O36: the codes lie one after the other in the code space, without a gap, in the order of
(length, symbol). -/
theorem canonicalCodesCount : Obligations.CanonicalCodesCount := by
  intro lens hlens
  have hle : ∀ {a m}, lens.getD a 0 = m + 1 → m < 16 := fun {a m} ha => by
    have := hlens _ (List.getElem_mem (lt_length_of_getD ha))
    rw [← List.getD_eq_getElem _ 0 (lt_length_of_getD ha), ha] at this
    exact this
  refine ⟨fun a ha hfirst => ?_, fun a b ha hb hab hnext => ?_⟩
  · obtain ⟨m, hm⟩ := Nat.exists_eq_succ_of_ne_zero ha
    have hstart : codeStart lens a = 0 := by
      by_contra hne
      obtain ⟨c, k, hc, hcs, -⟩ := exists_code_before hm (hle hm) (Nat.sub_one_lt hne)
      have := before_of_codes_lt hc hm (.inl (by omega))
      exact hfirst c (by omega) (by omega)
    rw [canonicalCode_eq hm, hstart, Nat.zero_div]
  · obtain ⟨m, hm⟩ := Nat.exists_eq_succ_of_ne_zero ha
    obtain ⟨n, hn⟩ := Nat.exists_eq_succ_of_ne_zero hb
    have hmn : m ≤ n := by omega
    have hn16 := hle hn
    have hends : codeStart lens a + 2 ^ (15 - m) ≤ codeStart lens b := codeEnd_le_codeStart hm hn (by omega)
    have hmeet : codeStart lens b = codeStart lens a + 2 ^ (15 - m) := by
      by_contra hne
      obtain ⟨c, k, hc, hcs, hce⟩ := exists_code_before hn hn16 (Nat.lt_of_le_of_ne hends (Ne.symm hne))
      have hac := before_of_codes_lt hm hc (.inr hce)
      have hcb := before_of_codes_lt hc hn (.inl (by omega))
      exact hnext c (by omega) (by omega)
    have hpow : 2 ^ (15 - m) = 2 ^ (n - m) * 2 ^ (15 - n) := by rw [← Nat.pow_add]; congr 1; omega
    refine Nat.eq_of_mul_eq_mul_right (Nat.two_pow_pos (15 - n)) ?_
    have hdiff : lens.getD b 0 - lens.getD a 0 = n - m := by omega
    calc canonicalCode lens b * 2 ^ (15 - n) = codeStart lens b := canonicalCode_mul hn
      _ = (canonicalCode lens a + 1) * 2 ^ (15 - m) := by rw [hmeet, ← canonicalCode_mul hm]; ring
      _ = (canonicalCode lens a + 1) * 2 ^ (lens.getD b 0 - lens.getD a 0) * 2 ^ (15 - n) := by rw [hdiff, hpow]; ring

/-! ## O28: ALIGN -/

/-- Align() within the address space. -/
theorem alignCursor_of_lt {s : State} (h : s.bitOff = 0 ∨ s.byteOff + 2 < 2 ^ 32) :
    alignCursor s = .ok () (aligned s) := by
  rw [alignCursor_run, aligned]
  split_ifs with h0
  · rfl
  · exact writeCursor_of_lt 0 s (h.resolve_left h0)

theorem aligned_begin (s : State) (op : BitVec 8) : aligned (s.begin op) = (aligned s).begin op :=
  (apply_ite (·.begin op) (s.bitOff = 0) s (positioned s (s.byteOff + 2) 0)).symm

/-- Align() at the end of the address space changes nothing (41_buffer.md R89). -/
theorem alignCursor_of_le {s : State} (h0 : s.bitOff ≠ 0) (h : 2 ^ 32 ≤ s.byteOff + 2) :
    alignCursor s = .error (.raise .badOperand) s := by
  rw [alignCursor_run, if_neg h0, writeCursor_of_le 0 s h]

/-- Settles O28: the command and the element run the same Align(). -/
theorem alignToFrame : Obligations.AlignToFrame := by
  intro s hs
  split_ifs with h
  · have hcmd : doAlign (s.begin 0x33) = .ok .empty (aligned (s.begin 0x33)) :=
      Proc.bind_of_ok (alignCursor_of_lt (s := s.begin 0x33) h)
    rw [aligned_begin] at hcmd
    exact ⟨command_of_ok (t := (aligned s).begin 0x33) hs hcmd, element_of_ok hs (alignCursor_of_lt h)⟩
  · obtain ⟨h0, hle⟩ := not_or.1 h
    have hcmd : doAlign (s.begin 0x33) = .error (.raise .badOperand) (s.begin 0x33) :=
      Proc.bind_of_error (alignCursor_of_le (s := s.begin 0x33) h0 (Nat.not_lt.1 hle))
    exact ⟨command_of_raise hs hcmd, element_of_raise hs (alignCursor_of_le h0 (Nat.not_lt.1 hle))⟩

end Sys2Proof.Machine

namespace Sys2Proof.Machine

open Sys2Proof.Safety

/-! ## A field that comes next is read as itself -/

section
variable {s : State} {f : Field} {fs : List Field}

theorem decoded_of_ok {fmt : Format} {fields : List Field} {i : Instr} (h : decode (.element fmt fields) = .ok i)
    (s : State) : decoded fmt fields s = .ok i s := by
  rw [decoded, h]
  rfl

@[simp] theorem advanced_zero (s : State) : advanced s 0 = s := by
  have hlt := s.bitOff_lt
  rw [advanced_eq_withCursor, Nat.add_zero, Nat.div_eq_of_lt hlt, Nat.mod_eq_of_lt hlt]
  exact s.withCursor_self

/-- The length of the bits of fields in stream order. -/
theorem fieldsBits_cons_length :
    (fieldsBits s (f :: fs)).length = (fieldBits s.treeLengths f).length + (fieldsBits s fs).length := by
  rw [fieldsBits, List.flatMap_cons, List.length_append, fieldsBits]

/-- The state after the bits of one field. -/
def passed (s : State) (f : Field) : State := advanced s (fieldBits s.treeLengths f).length

/-- The state after the bits of all fields. -/
def passedAll (s : State) (fields : List Field) : State := advanced s (fieldsBits s fields).length

theorem passed_raw (w v : Nat) : passed s (.raw w v) = advanced s w := by
  simp only [passed, fieldBits, bitsOf_length]

theorem passed_sym (x : Tree) (v : Nat) : passed s (.sym x v) = advanced s ((s.treeLengths x).getD v 0) := by
  simp only [passed, fieldBits, bitsOf_length]

theorem passedAll_nil : passedAll s [] = s := advanced_zero s

/-- Of fields that come next, the first one's bits come next, and the others come after them. -/
theorem fieldsAhead_cons (h : fieldsAhead s (f :: fs)) :
    streamBits s (fieldBits s.treeLengths f).length = fieldBits s.treeLengths f ∧
      framesPresent s ((fieldBits s.treeLengths f).length + 32) ∧ fieldsAhead (passed s f) fs := by
  obtain ⟨hbits, hframes, hready⟩ := h
  rw [fieldsBits_cons_length] at hbits hframes
  have hfirst : framesPresent s ((fieldBits s.treeLengths f).length + 32) := framesPresent_mono hframes (by omega)
  have hpresent : framesPresent s (fieldBits s.treeLengths f).length := framesPresent_mono hfirst (by omega)
  rw [streamBits_add hpresent] at hbits
  obtain ⟨hhead, htail⟩ := List.append_inj hbits (by simp)
  rw [Nat.add_assoc] at hframes
  exact ⟨hhead, hfirst, htail, framesPresent_advanced hframes, fun x v hv => hready x v (List.mem_cons_of_mem _ hv)⟩

theorem fieldsAhead_passed (h : fieldsAhead s (f :: fs)) : fieldsAhead (passed s f) fs := (fieldsAhead_cons h).2.2

theorem passedAll_passed (h : fieldsAhead s (f :: fs)) : passedAll (passed s f) fs = passedAll s (f :: fs) := by
  obtain ⟨-, hframes, -⟩ := fieldsAhead_cons h
  rw [passedAll, passedAll, fieldsBits_cons_length]
  exact advanced_advanced (framesPresent_mono hframes (Nat.le_add_right _ _))

/-- A canonical code fits its length if the lengths are not over-subscribed (42_huffman.md R129). -/
theorem canonicalCode_lt {lens : List Nat} {a m : Nat} (h : lens.getD a 0 = m + 1) (hm : m < 16)
    (hk : kraft 16 lens ≤ 65536) : canonicalCode lens a < 2 ^ (m + 1) := by
  have hend := codeEnd_le h
  have hmono := kraft_mono (show m + 1 ≤ 16 by omega) lens
  have hpos := Nat.two_pow_pos (15 - m)
  have hspace : 2 ^ (m + 1) * 2 ^ (15 - m) = 65536 := by
    rw [← Nat.pow_add, show m + 1 + (15 - m) = 16 by omega]
  refine Nat.lt_of_mul_lt_mul_right (a := 2 ^ (15 - m)) ?_
  rw [canonicalCode_mul h, hspace]
  omega

/-- The codes of a tree that is ready are a code without a common beginning, and hold the canonical code of every
symbol that has one. -/
theorem treeReady_codes {x : Tree} (h : treeReady s x) :
    PrefixCode (s.treeTable x).codes ∧ ∀ v, (s.treeLengths x).getD v 0 ≠ 0 →
      ⟨v, (s.treeLengths x).getD v 0, canonicalCode (s.treeLengths x) v⟩ ∈ (s.treeTable x).codes := by
  obtain ⟨⟨hvalid, hbuild⟩, hkraft, hlens⟩ := h
  have htb : 1 ≤ treeBits x ∧ treeBits x ≤ 16 := by cases x <;> decide
  have hmem : ∀ {m v}, (s.treeLengths x).getD v 0 ≠ 0 → (s.treeLengths x).getD v 0 ≤ m →
      (⟨v, (s.treeLengths x).getD v 0, canonicalCode (s.treeLengths x) v⟩ : Leaf) ∈ unitLeaves (s.treeLengths x) m :=
    fun hv hle => mem_unitLeaves.2 ⟨_, Nat.pos_of_ne_zero hv, hle, rfl⟩
  have hlen16 : ∀ v, (s.treeLengths x).getD v 0 ≤ 16 := fun v => by
    rcases Nat.lt_or_ge v (s.treeLengths x).length with hlt | hge
    · rw [List.getD_eq_getElem _ _ hlt]
      exact hlens _ (List.getElem_mem hlt)
    · rw [List.getD_eq_default _ _ hge]
      exact Nat.zero_le _
  rw [Table.codes, if_pos hvalid]
  rcases leaves_of_buildTable htb hbuild with ⟨ht, hk⟩ | ⟨ht, -, -⟩ | ⟨ht, -, -⟩ <;> rw [ht]
  · exact ⟨prefixCode_unitLeaves htb.2, fun v hv => hmem hv (getD_le_of_kraft hk hkraft.le hlens)⟩
  · exact ⟨prefixCode_unitLeaves (Nat.le_refl 16), fun v hv => hmem hv (hlen16 v)⟩
  · exact ⟨prefixCode_unitLeaves (Nat.le_refl 16), fun v hv => hmem hv (hlen16 v)⟩

/-- Decode(X) of a symbol whose canonical code comes next (42_huffman.md R129, R132). -/
theorem decodeTree_of_code {x : Tree} {v : Nat} (hready : treeReady s x) (hv : (s.treeLengths x).getD v 0 ≠ 0)
    (hbits : streamBits s (fieldBits s.treeLengths (.sym x v)).length = fieldBits s.treeLengths (.sym x v))
    (hframes : framesPresent s ((fieldBits s.treeLengths (.sym x v)).length + 32)) :
    decodeTree x s = .ok v (passed s (.sym x v)) := by
  obtain ⟨hprefix, hmem⟩ := treeReady_codes hready
  have htb : treeBits x ≤ 16 := by cases x <;> decide
  simp only [fieldBits, bitsOf_length] at hbits hframes
  have hcode : ofBits (streamBits s ((s.treeLengths x).getD v 0)) = canonicalCode (s.treeLengths x) v := by
    obtain ⟨m, hm⟩ := Nat.exists_eq_succ_of_ne_zero hv
    have hm16 : (s.treeLengths x).getD v 0 ≤ 16 := (hprefix.len _ (hmem v hv)).2
    rw [hbits, ofBits_bitsOf, hm, Nat.mod_eq_of_lt (canonicalCode_lt hm (by omega) hready.2.1.le)]
  have hpeek : framesPresent s (if (s.treeLengths x).getD v 0 ≤ treeBits x then treeBits x else 32) :=
    framesPresent_mono hframes (by split_ifs <;> omega)
  rw [passed_sym, decodeTree, Proc.bind_get, decodeSym_of_code hprefix (hmem v hv) _ htb hcode hpeek]
  exact passSymbol_of_present (framesPresent_mono hframes (Nat.le_add_right _ _))

/-- A raw field that comes next. -/
theorem readBits_of_ahead {w v : Nat} (hv : v < 2 ^ w) (h : fieldsAhead s (.raw w v :: fs)) :
    readBits w s = .ok v (passed s (.raw w v)) := by
  obtain ⟨hbits, hframes, -⟩ := fieldsAhead_cons h
  simp only [fieldBits, bitsOf_length] at hbits hframes
  rw [passed_raw, readBits_of_present (framesPresent_mono hframes (Nat.le_add_right _ _)), hbits, ofBits_bitsOf,
    Nat.mod_eq_of_lt hv]

/-- A symbol that comes next. -/
theorem decodeTree_of_ahead {x : Tree} {v : Nat} (h : fieldsAhead s (.sym x v :: fs)) :
    decodeTree x s = .ok v (passed s (.sym x v)) := by
  obtain ⟨hbits, hframes, -⟩ := fieldsAhead_cons h
  obtain ⟨hready, hcoded⟩ := h.2.2 x v List.mem_cons_self
  exact decodeTree_of_code hready hcoded hbits hframes

/-- A field that comes next is read as itself, and its bits are passed. -/
theorem readField_of_ahead {k : FieldKind} {v : Nat} (hv : k.admits v) (h : fieldsAhead s (k.field v :: fs)) :
    readField k s = .ok (k.field v) (passed s (k.field v)) := by
  cases k with
  | raw w => exact Proc.bind_of_ok (readBits_of_ahead hv h)
  | sym x => exact Proc.bind_of_ok (decodeTree_of_ahead h)

/-- Fields that come next are read as themselves, one after the other. -/
theorem readFields_of_ahead {ks : List FieldKind} {vs : List Nat} (hvs : fieldValues ks fs = .ok vs)
    (h : fieldsAhead s fs) : readFields ks s = .ok fs (passedAll s fs) := by
  induction ks generalizing s fs vs with
  | nil =>
    obtain ⟨rfl, rfl⟩ := fieldValues_nil_eq_ok.1 hvs
    rw [passedAll_nil]
    rfl
  | cons k ks ih =>
    obtain ⟨v, gs, us, rfl, rfl, hv, hus⟩ := fieldValues_cons_eq_ok.1 hvs
    rw [readFields, Proc.bind_of_ok (readField_of_ahead hv h), Proc.bind_of_ok (ih hus (fieldsAhead_passed h)),
      passedAll_passed h]
    rfl

end

/-- Settles O46: the main symbol is decoded, it selects the plan of the fields after it, and these are read. -/
theorem mainElementsFetched : Obligations.MainElementsFetched := by
  intro s fields i hdecode h
  obtain ⟨m, rest, vs, rfl, hm, hvs, -⟩ := decode_mainItem_eq_ok.1 hdecode
  change _ = EStateM.Result.ok i (passedAll s (.sym .main m :: rest))
  rw [fetchElement, fetchMainItem, Proc.bind_of_ok (decodeTree_of_ahead h), Proc.bind_get, ← passedAll_passed h]
  exact (Proc.bind_of_ok (readFields_of_ahead hvs (fieldsAhead_passed h))).trans (decoded_of_ok hdecode _)

end Sys2Proof.Machine

namespace Sys2Proof.Machine

open Sys2Proof.Safety

/-! ## Headers as bits of the stream -/

section
variable {s : State}

theorem fetch_transform (h : framesPresent s 1) :
    fetchElement .transform s = .ok (.transform (BitVec.ofBool (streamBit s 0))) (advanced s 1) := by
  have hfield : readField (.raw 1) s = .ok (.raw 1 (ofBits (streamBits s 1))) (advanced s 1) :=
    Proc.bind_of_ok (readBits_of_present h)
  refine (Proc.bind_of_ok hfield).trans (decoded_of_ok ?_ _)
  refine decode_transform_eq_ok.2 ⟨_, ofBits_streamBits_lt s 1, rfl, congrArg _ ?_⟩
  have hbit : ofBits (streamBits s 1) = (streamBit s 0).toNat := by simp [streamBits, ofBits]
  rw [hbit]
  cases streamBit s 0 <;> rfl

/-- The size of a block header is read in two parts (30_encoding.md R74). -/
theorem ofBits_blockSize (h : framesPresent s 27) :
    ofBits ((streamBits s 27).drop 3) =
      ofBits (streamBits (advanced s 3) 16) * 256 + ofBits (streamBits (advanced (advanced s 3) 16) 8) := by
  have h3 : framesPresent s 3 := framesPresent_mono h (by decide)
  have h19 : framesPresent (advanced s 3) 16 := framesPresent_advanced (framesPresent_mono h (by decide))
  rw [show (27 : Nat) = 3 + 24 from rfl, streamBits_add h3, List.drop_left' (by simp),
    show (24 : Nat) = 16 + 8 from rfl,
    ofBits_streamBits_add h19]
  rfl

theorem fetch_blockHeader (h : framesPresent s 27) :
    fetchElement .blockHeader s = .ok
      (blockInstr (ofBits (streamBits s 3)) (BitVec.ofNat 24 (ofBits ((streamBits s 27).drop 3))))
      { advanced s 27 with blockType := BitVec.ofNat 3 (ofBits (streamBits s 3)) } := by
  have h3 : framesPresent s 3 := framesPresent_mono h (by decide)
  have h19 : framesPresent s 19 := framesPresent_mono h (by decide)
  have hhi : framesPresent (advanced s 3) 16 := framesPresent_advanced h19
  have hlo : framesPresent (advanced (advanced s 3) 16) 8 := by
    rw [advanced_advanced h3]
    exact framesPresent_advanced h
  have hreadHi (type : BitVec 3) : readBits 16 { advanced s 3 with blockType := type } =
      .ok (ofBits (streamBits (advanced s 3) 16)) { advanced (advanced s 3) 16 with blockType := type } :=
    readBits_of_present hhi
  have hreadLo (type : BitVec 3) : readBits 8 { advanced (advanced s 3) 16 with blockType := type } =
      .ok (ofBits (streamBits (advanced (advanced s 3) 16) 8))
        { advanced (advanced (advanced s 3) 16) 8 with blockType := type } :=
    readBits_of_present hlo
  rw [fetchElement, fetchBlockHeader, Proc.bind_of_ok (readBits_of_present h3), Proc.bind_update]
  refine (Proc.bind_of_ok (hreadHi _)).trans ((Proc.bind_of_ok (hreadLo _)).trans ?_)
  rw [advanced_advanced h3, advanced_advanced h19]
  refine decoded_of_ok (decode_blockHeader_eq_ok.2
    ⟨_, _, _, ⟨ofBits_streamBits_lt _ _, ofBits_streamBits_lt _ _, ofBits_streamBits_lt _ _⟩, rfl, ?_⟩) _
  rw [ofBits_blockSize h, advanced_advanced h3]

/-! ## Headers as bytes of the stream -/

theorem skipped_byteOff {n : Nat} (h : s.byteOff + n < 4294967296) : (skipped s n).byteOff = s.byteOff + n :=
  Nat.mod_eq_of_lt h

theorem skipped_skipped {n m : Nat} (h : s.byteOff + n < 4294967296) :
    skipped (skipped s n) m = skipped s (n + m) := by
  rw [skipped, skipped_byteOff h, Nat.add_assoc]
  rfl

/-- LzxInt16() of two bytes that are in STORE, the first one high (45_framer.md R167). -/
theorem lzxInt16_of_le (h : s.byteOff + 2 ≤ s.storeLen.toNat) :
    lzxInt16 s = .ok ((s.storeByte s.byteOff ++ s.storeByte (s.byteOff + 1)).toNat) (skipped s 2) := by
  rw [lzxInt16, Proc.bind_of_ok (readRaw_of_le h), skipped_eq_withCursor]
  refine congrArg (EStateM.Result.ok · _) ?_
  rw [BitVec.toNat_append, ← Nat.shiftLeft_add_eq_or_of_lt (BitVec.isLt _), Nat.shiftLeft_eq]
  simp [State.storeBytes, beNat, List.range_succ]
  ring

/-- The explicit chunk header (30_encoding.md R71, 45_framer.md R166). -/
theorem fetch_chunkHeader_explicit (h : s.byteOff + 5 ≤ s.storeLen.toNat) (hff : s.storeByte s.byteOff = 0xFF) :
    fetchElement .chunkHeader s = .ok (.frmExplicit
      (s.storeByte (s.byteOff + 1) ++ s.storeByte (s.byteOff + 2))
      (s.storeByte (s.byteOff + 3) ++ s.storeByte (s.byteOff + 4))) (skipped s 5) := by
  have hlen := s.storeLen.isLt
  have h1 : (skipped s 1).byteOff = s.byteOff + 1 := skipped_byteOff (by omega)
  have h3 : (skipped s 3).byteOff = s.byteOff + 3 := skipped_byteOff (by omega)
  have hbyte : readByte s = .ok 0xFF (skipped s 1) := by
    rw [readByte_of_lt (by omega), hff, skipped_eq_withCursor]
  have hfs : lzxInt16 (skipped s 1) =
      .ok ((s.storeByte (s.byteOff + 1) ++ s.storeByte (s.byteOff + 2)).toNat) (skipped s 3) := by
    rw [lzxInt16_of_le (by rw [h1]; exact Nat.le_trans (by omega) h), h1, skipped_skipped (by omega)]
    rfl
  have hbs : lzxInt16 (skipped s 3) =
      .ok ((s.storeByte (s.byteOff + 3) ++ s.storeByte (s.byteOff + 4)).toNat) (skipped s 5) := by
    rw [lzxInt16_of_le (by rw [h3]; exact h), h3, skipped_skipped (by omega)]
    rfl
  rw [fetchElement, fetchChunkHeader, Proc.bind_of_ok hbyte, if_pos rfl, Proc.bind_of_ok hfs, Proc.bind_of_ok hbs]
  exact decoded_of_ok (decode_chunkHeader_eq_ok.2 (.inr ⟨_, _, ⟨BitVec.isLt _, BitVec.isLt _⟩, rfl, by simp⟩)) _

/-- The implicit chunk header: its first byte is read again as a part of block_size. -/
theorem fetch_chunkHeader_implicit (h : s.byteOff + 2 ≤ s.storeLen.toNat) (hff : s.storeByte s.byteOff ≠ 0xFF) :
    fetchElement .chunkHeader s = .ok (.frmImplicit
      (s.storeByte s.byteOff ++ s.storeByte (s.byteOff + 1))) (skipped s 2) := by
  have hlen := s.storeLen.isLt
  have hbyte : readByte s = .ok (s.storeByte s.byteOff) (s.withCursor (s.byteOff + 1) s.bitOff) :=
    readByte_of_lt (by omega)
  have hback : writeByteOffset ((s.withCursor (s.byteOff + 1) s.bitOff).byteOff - 1)
      (s.withCursor (s.byteOff + 1) s.bitOff) = .ok () s := by
    rw [State.withCursor_byteOff _ _ (by omega), writeByteOffset_run, writeCursor_of_lt _ _ (by omega),
      Nat.add_sub_cancel, State.withCursor_withCursor, State.withCursor_bitOff _ _ s.bitOff_lt, State.withCursor_self]
  have hhigh : (s.storeByte s.byteOff ++ s.storeByte (s.byteOff + 1)).toNat / 256 ≠ 0xFF := by
    have hlow := (s.storeByte (s.byteOff + 1)).isLt
    rw [BitVec.toNat_append, ← Nat.shiftLeft_add_eq_or_of_lt hlow, Nat.shiftLeft_eq]
    exact fun heq => hff (BitVec.eq_of_toNat_eq (by simp; omega))
  rw [fetchElement, fetchChunkHeader, Proc.bind_of_ok hbyte, if_neg hff, Proc.bind_get, Proc.bind_of_ok hback,
    Proc.bind_of_ok (lzxInt16_of_le h)]
  exact decoded_of_ok (decode_chunkHeader_eq_ok.2 (.inl ⟨_, ⟨BitVec.isLt _, hhigh⟩, rfl, by simp⟩)) _

theorem readU32_of_le (h : s.byteOff + 4 ≤ s.storeLen.toNat) : readU32 s = .ok (littleEndian s 4) (skipped s 4) := by
  rw [readU32, Proc.bind_of_ok (readRaw_of_le h), leNat_store, skipped_eq_withCursor]
  rfl

/-- The repeated offsets, each latched as it is read (43_lzx_blocks.md R146). -/
theorem fetch_uncompReps (h : s.byteOff + 12 ≤ s.storeLen.toNat) :
    fetchElement .uncompReps s = .ok
      (.uncompReps (BitVec.ofNat 32 (littleEndian s 4)) (BitVec.ofNat 32 (littleEndian (skipped s 4) 4))
        (BitVec.ofNat 32 (littleEndian (skipped s 8) 4)))
      { skipped s 12 with
        rep0 := BitVec.ofNat 32 (littleEndian s 4)
        rep1 := BitVec.ofNat 32 (littleEndian (skipped s 4) 4)
        rep2 := BitVec.ofNat 32 (littleEndian (skipped s 8) 4) } := by
  have hlen := s.storeLen.isLt
  have h4 : (skipped s 4).byteOff = s.byteOff + 4 := skipped_byteOff (by omega)
  have h8 : (skipped s 8).byteOff = s.byteOff + 8 := skipped_byteOff (by omega)
  have hin4 : (skipped s 4).byteOff + 4 ≤ s.storeLen.toNat := by omega
  have hin8 : (skipped s 8).byteOff + 4 ≤ s.storeLen.toNat := by omega
  have hnext4 : skipped (skipped s 4) 4 = skipped s 8 := skipped_skipped (by omega)
  have hnext8 : skipped (skipped s 8) 4 = skipped s 12 := skipped_skipped (by omega)
  have hread4 (r0 : U32) : readU32 { skipped s 4 with rep0 := r0 } =
      .ok (littleEndian (skipped s 4) 4) { skipped s 8 with rep0 := r0 } := by
    rw [← hnext4]
    exact readU32_of_le (s := { skipped s 4 with rep0 := r0 }) hin4
  have hread8 (r0 r1 : U32) : readU32 { skipped s 8 with rep0 := r0, rep1 := r1 } =
      .ok (littleEndian (skipped s 8) 4) { skipped s 12 with rep0 := r0, rep1 := r1 } := by
    rw [← hnext8]
    exact readU32_of_le (s := { skipped s 8 with rep0 := r0, rep1 := r1 }) hin8
  rw [fetchElement, fetchUncompReps, Proc.bind_of_ok (readU32_of_le (by omega)), Proc.bind_update]
  refine (Proc.bind_of_ok (hread4 _)).trans ?_
  rw [Proc.bind_update]
  refine (Proc.bind_of_ok (hread8 _ _)).trans ?_
  rw [Proc.bind_update]
  exact decoded_of_ok (decode_uncompReps_eq_ok.2
    ⟨_, _, _, ⟨littleEndian_lt s 4, littleEndian_lt _ 4, littleEndian_lt _ 4⟩, rfl, rfl⟩) _

end

/-! ## Raw lengths, latched as they are read -/

section
variable {w N : Nat} {latch : Nat → Nat → State → State} {put : Vector (Option (BitVec w)) N → State → State}
  {x : Vector (Option (BitVec w)) N} {s : State} {i n k : Nat}

/-- `latch` writes one entry of the length array that `put` replaces, and bit reads do not see that array. -/
structure LatchesInto (latch : Nat → Nat → State → State) (put : Vector (Option (BitVec w)) N → State → State) :
    Prop where
  latched : ∀ i v x s, latch i v (put x s) = put (x.setIfInBounds i (some (BitVec.ofNat w v))) s
  present : ∀ x s n, framesPresent (put x s) n ↔ framesPresent s n
  bits : ∀ x s n, streamBits (put x s) n = streamBits s n
  advance : ∀ x s n, advanced (put x s) n = put x (advanced s n)
  past : ∀ x s, pastFrames (put x s) = put x (pastFrames s)

/-- ALIGNED_LEN replaced. -/
def putAlignedLen (x : Vector (Option (BitVec 3)) 8) (s : State) : State := { s with alignedLen := x }

/-- PRETREE_LEN replaced. -/
def putPretreeLen (x : Vector (Option (BitVec 4)) 20) (s : State) : State := { s with pretreeLen := x }

theorem latchesInto_alignedLen : LatchesInto latchAlignedLen putAlignedLen where
  latched _ _ _ _ := rfl
  present _ _ _ := Iff.rfl
  bits _ _ _ := rfl
  advance _ _ _ := rfl
  past x s := (apply_ite (putAlignedLen x) (s.byteOff + 2 ≤ s.storeLen.toNat) (positioned s (s.byteOff + 2) 0) s).symm

theorem latchesInto_pretreeLen : LatchesInto latchPretreeLen putPretreeLen where
  latched _ _ _ _ := rfl
  present _ _ _ := Iff.rfl
  bits _ _ _ := rfl
  advance _ _ _ := rfl
  past x s := (apply_ite (putPretreeLen x) (s.byteOff + 2 ≤ s.storeLen.toNat) (positioned s (s.byteOff + 2) 0) s).symm

theorem rawField_eq_map (s : State) (w k : Nat) :
    Safety.rawField s w k = ofBits ((List.range w).map fun j => streamBit s (w * k + j)) := by
  rw [Safety.rawField, Nat.mul_succ, streamBits, List.range_add, List.map_append, List.drop_left' (by simp),
    List.map_map]
  rfl

theorem rawField_zero (s : State) (w : Nat) : Safety.rawField s w 0 = ofBits (streamBits s w) := by
  simp [rawField_eq_map, streamBits]

theorem rawField_advanced (h : framesPresent s w) :
    Safety.rawField (advanced s w) w k = Safety.rawField s w (k + 1) := by
  simp only [rawField_eq_map, streamBit_advanced h]
  congr 1
  refine List.map_congr_left fun j _ => congrArg _ ?_
  ring

theorem rawField_lt (s : State) (w k : Nat) : Safety.rawField s w k < 2 ^ w := by
  simpa [rawField_eq_map] using ofBits_lt ((List.range w).map fun j => streamBit s (w * k + j))

/-- The `n` raw fields at the cursors of `s`, written to a length array from entry `i` on. -/
def latchedLengths (x : Vector (Option (BitVec w)) N) (s : State) (i n : Nat) : Vector (Option (BitVec w)) N :=
  .ofFn fun j => if i ≤ j ∧ j < i + n then some (BitVec.ofNat w (Safety.rawField s w (j - i))) else x[j]

theorem latchedLengths_zero : latchedLengths x s i 0 = x := by
  ext1 j hj
  simp only [latchedLengths, Vector.getElem_ofFn]
  exact if_neg (by omega)

/-- One more field is written at the front. -/
theorem latchedLengths_succ (h : framesPresent s w) :
    latchedLengths (x.setIfInBounds i (some (BitVec.ofNat w (Safety.rawField s w 0)))) (advanced s w) (i + 1) n =
      latchedLengths x s i (n + 1) := by
  ext1 j hj
  simp only [latchedLengths, Vector.getElem_ofFn, rawField_advanced h, Fin.getElem_fin, Vector.getElem_setIfInBounds]
  rcases Nat.lt_trichotomy j i with hlt | rfl | hgt
  · rw [if_neg (by omega), if_neg (by omega), if_neg (by omega)]
  · rw [if_neg (by omega), if_pos rfl, if_pos (by omega), Nat.sub_self]
  · rw [show j - (i + 1) + 1 = j - i by omega, if_neg (show ¬i = j by omega)]
    simp only [show i + 1 ≤ j ∧ j < i + 1 + n ↔ i ≤ j ∧ j < i + (n + 1) by omega]

theorem LatchesInto.readBits_present (L : LatchesInto latch put) (h : framesPresent s w) :
    readBits w (put x s) = .ok (Safety.rawField s w 0) (put x (advanced s w)) := by
  rw [readBits_of_present ((L.present x s w).2 h), L.bits, L.advance, rawField_zero]

/-- The frames of two reads one after the other are those of one read. -/
theorem framesPresent_add {m : Nat} (h : framesPresent s n) (hm : framesPresent (advanced s n) m) :
    framesPresent s (n + m) := by
  obtain ⟨hbyte, hbit⟩ := advanced_cursors h
  have hlen : (advanced s n).storeLen = s.storeLen := rfl
  rw [framesPresent, hbyte, hbit, hlen] at hm
  omega

/-- A missing frame leaves the cursors past the frame that was begun (41_buffer.md R90). -/
theorem readBits_pastFrames (hw : w ≤ 16) (h : ¬framesPresent s w) :
    readBits w s = .error (.raise .readPastEnd) (pastFrames s) := by
  rw [readBits_of_missing h, pastFrames, positioned_eq_withCursor]
  have hbit := s.bitOff_lt
  obtain ⟨h0, hlt⟩ := not_or.1 h
  split_ifs with h1 h2 h2
  · omega
  · rw [show (s.storeLen.toNat - s.byteOff) / 2 = 0 by omega, Nat.mul_zero, Nat.add_zero,
      State.withCursor_self]
  · rw [show (s.storeLen.toNat - s.byteOff) / 2 = 1 by omega]
  · omega

/-- The fields that are in STORE are read and latched. -/
theorem LatchesInto.readLengthFields_present (L : LatchesInto latch put) (h : framesPresent s (w * n)) :
    readLengthFields w latch n i (put x s) =
      .ok ((List.range n).map fun k => .raw w (Safety.rawField s w k))
        (put (latchedLengths x s i n) (advanced s (w * n))) := by
  induction n generalizing s i x with
  | zero => rw [Nat.mul_zero, advanced_zero, latchedLengths_zero]; rfl
  | succ n ih =>
    rw [Nat.mul_succ, Nat.add_comm] at h
    have hfirst : framesPresent s w := framesPresent_mono h (Nat.le_add_right _ _)
    rw [readLengthFields, Proc.bind_of_ok (L.readBits_present hfirst), Proc.bind_update, L.latched,
      Proc.bind_of_ok (ih (framesPresent_advanced h)), latchedLengths_succ hfirst, advanced_advanced hfirst]
    simp only [rawField_advanced hfirst, List.range_succ_eq_map, List.map_cons, List.map_map]
    rw [Nat.mul_succ, Nat.add_comm w]
    rfl

/-- A missing frame leaves the fields before it latched (60_exceptions.md R177). -/
theorem LatchesInto.readLengthFields_missing (L : LatchesInto latch put) (hw : w ≤ 16) (hk : k < n)
    (h : framesPresent s (w * k)) (hmissing : ¬framesPresent s (w * (k + 1))) :
    readLengthFields w latch n i (put x s) =
      .error (.raise .readPastEnd) (put (latchedLengths x s i k) (pastFrames (advanced s (w * k)))) := by
  obtain ⟨n, rfl⟩ : ∃ m, n = m + 1 := ⟨n - 1, by omega⟩
  induction k generalizing s i x n with
  | zero =>
    rw [Nat.zero_add, Nat.mul_one] at hmissing
    rw [readLengthFields, Proc.bind_of_error (readBits_pastFrames hw fun hp => hmissing ((L.present x s w).1 hp)),
      L.past,
      Nat.mul_zero, advanced_zero, latchedLengths_zero]
  | succ k ih =>
    rw [Nat.mul_succ, Nat.add_comm] at h
    have hfirst : framesPresent s w := framesPresent_mono h (Nat.le_add_right _ _)
    have hnext : ¬framesPresent (advanced s w) (w * (k + 1)) := fun hp => hmissing (by
      rw [Nat.mul_succ, Nat.add_comm]
      exact framesPresent_add hfirst hp)
    obtain ⟨n, rfl⟩ : ∃ m, n = m + 1 := ⟨n - 1, by omega⟩
    rw [readLengthFields, Proc.bind_of_ok (L.readBits_present hfirst), Proc.bind_update, L.latched,
      Proc.bind_of_error (ih (framesPresent_advanced h) hnext n (by omega)), latchedLengths_succ hfirst,
      advanced_advanced hfirst, Nat.mul_succ, Nat.add_comm w]

/-- All entries of a length array latched. -/
theorem latchedLengths_all {x : Vector (Option (BitVec w)) n} :
    latchedLengths x s 0 n = (Vector.ofFn fun k : Fin n => BitVec.ofNat w (Safety.rawField s w k)).map some := by
  ext1 j
  simp [latchedLengths]

/-- The first `k` entries latched. -/
theorem latchedLengths_first :
    latchedLengths x s 0 k =
      .ofFn fun j : Fin N => if j < k then some (BitVec.ofNat w (Safety.rawField s w j)) else x[j] := by
  simp [latchedLengths]

theorem ofFn_getD_rawField (s : State) (w n : Nat) :
    (Vector.ofFn fun j : Fin n => BitVec.ofNat w (((List.range n).map (Safety.rawField s w)).getD j 0)) =
      .ofFn fun j : Fin n => BitVec.ofNat w (Safety.rawField s w j) := by
  ext1 j
  simp [List.getD_eq_getElem?_getD]

theorem rawFields_admitted (s : State) (w n : Nat) :
    ((List.range n).map (Safety.rawField s w)).length = n ∧ ∀ v ∈ (List.range n).map (Safety.rawField s w), v < 2 ^ w :=
  ⟨by simp, List.forall_mem_map.2 fun k _ => rawField_lt s w k⟩

end

section
variable {s : State} {k : Nat}

/-- The eight lengths of the aligned tree (43_lzx_blocks.md R144). -/
theorem fetch_alignedLengths (h : framesPresent s 24) :
    fetchElement .alignedLengths s =
      .ok (.alignedLengths (.ofFn fun k : Fin 8 => BitVec.ofNat 3 (Safety.rawField s 3 k)))
        (putAlignedLen ((Vector.ofFn fun k : Fin 8 => BitVec.ofNat 3 (Safety.rawField s 3 k)).map some)
          (advanced s 24)) := by
  have hread := latchesInto_alignedLen.readLengthFields_present (x := s.alignedLen) (i := 0) (n := 8) h
  rw [latchedLengths_all] at hread
  refine (Proc.bind_of_ok hread).trans (decoded_of_ok (decode_alignedLengths_eq_ok.2
    ⟨(List.range 8).map (Safety.rawField s 3), rawFields_admitted s 3 8, ?_, ?_⟩) _)
  · rw [List.map_map]
    rfl
  · rw [ofFn_getD_rawField]

theorem fetch_alignedLengths_missing (hk : k < 8) (h : framesPresent s (3 * k))
    (hmissing : ¬framesPresent s (3 * (k + 1))) :
    fetchElement .alignedLengths s = .error (.raise .readPastEnd)
      (putAlignedLen (.ofFn fun j : Fin 8 => if j < k then some (BitVec.ofNat 3 (Safety.rawField s 3 j))
        else s.alignedLen[j]) (pastFrames (advanced s (3 * k)))) := by
  rw [← latchedLengths_first]
  exact Proc.bind_of_error (latchesInto_alignedLen.readLengthFields_missing (by decide) hk h hmissing)

/-- The twenty lengths of a pretree (43_lzx_blocks.md R147). -/
theorem fetch_pretree (h : framesPresent s 80) :
    fetchElement .pretree s =
      .ok (.pretree (.ofFn fun k : Fin 20 => BitVec.ofNat 4 (Safety.rawField s 4 k)))
        (putPretreeLen ((Vector.ofFn fun k : Fin 20 => BitVec.ofNat 4 (Safety.rawField s 4 k)).map some)
          (advanced s 80)) := by
  have hread := latchesInto_pretreeLen.readLengthFields_present (x := s.pretreeLen) (i := 0) (n := 20) h
  rw [latchedLengths_all] at hread
  refine (Proc.bind_of_ok hread).trans (decoded_of_ok (decode_pretree_eq_ok.2
    ⟨(List.range 20).map (Safety.rawField s 4), rawFields_admitted s 4 20, ?_, ?_⟩) _)
  · rw [List.map_map]
    rfl
  · rw [ofFn_getD_rawField]

theorem fetch_pretree_missing (hk : k < 20) (h : framesPresent s (4 * k))
    (hmissing : ¬framesPresent s (4 * (k + 1))) :
    fetchElement .pretree s = .error (.raise .readPastEnd)
      (putPretreeLen (.ofFn fun j : Fin 20 => if j < k then some (BitVec.ofNat 4 (Safety.rawField s 4 j))
        else s.pretreeLen[j]) (pastFrames (advanced s (4 * k)))) := by
  rw [← latchedLengths_first]
  exact Proc.bind_of_error (latchesInto_pretreeLen.readLengthFields_missing (by decide) hk h hmissing)

end

/-! ## Pretree items -/

section
variable {s : State}

theorem checkRun_of_le {count : Nat} (h : s.tmp.idx + count ≤ s.tmp.last) : checkRun count s = .ok () s :=
  if_neg (Nat.not_lt.2 h)

theorem checkRun_of_lt {count : Nat} (h : s.tmp.last < s.tmp.idx + count) :
    checkRun count s = .error (.raise .pretreeRunOvershoot) s := if_pos h

/-- An item of a symbol below 19: the fields of its plan follow. -/
theorem fetch_pretreeItem_plan {m : Nat} {rest : List Field} {vs : List Nat} {i : Instr} (hm : m ≠ 19)
    (hdecode : decode (.element .pretreeItem (.sym .pretree m :: rest)) = .ok i)
    (hvs : fieldValues (pretreePlan m) rest = .ok vs) (h : fieldsAhead s (.sym .pretree m :: rest)) :
    fetchElement .pretreeItem s = .ok i (passedAll s (.sym .pretree m :: rest)) := by
  rw [fetchElement, fetchPretreeItem, Proc.bind_of_ok (decodeTree_of_ahead h), if_neg hm, ← passedAll_passed h]
  exact (Proc.bind_of_ok (readFields_of_ahead hvs (fieldsAhead_passed h))).trans (decoded_of_ok hdecode _)

/-- PT.SAME within its range: the second symbol follows the repeat bit. -/
theorem fetch_pretreeItem_same {z s2 : Nat} {i : Instr} (hz : z < 2 ^ 1)
    (hdecode : decode (.element .pretreeItem [.sym .pretree 19, .raw 1 z, .sym .pretree s2]) = .ok i)
    (h : fieldsAhead s [.sym .pretree 19, .raw 1 z, .sym .pretree s2]) (hrun : s.tmp.idx + (z + 4) ≤ s.tmp.last) :
    fetchElement .pretreeItem s = .ok i (passedAll s [.sym .pretree 19, .raw 1 z, .sym .pretree s2]) := by
  have hbit := fieldsAhead_passed h
  have hsym := fieldsAhead_passed hbit
  have hcheck := checkRun_of_le (s := passed (passed s (.sym .pretree 19)) (.raw 1 z)) hrun
  rw [fetchElement, fetchPretreeItem, Proc.bind_of_ok (decodeTree_of_ahead h), if_pos rfl,
    Proc.bind_of_ok (readBits_of_ahead hz hbit), Proc.bind_of_ok hcheck, Proc.bind_of_ok (decodeTree_of_ahead hsym),
    ← passedAll_passed h, ← passedAll_passed hbit, ← passedAll_passed hsym, passedAll_nil]
  exact decoded_of_ok hdecode _

/-- PT.SAME past the end of its range faults before its second symbol is read (43_lzx_blocks.md R147). -/
theorem fetch_pretreeItem_overshoot {z : Nat} (hz : z < 2 ^ 1) (h : fieldsAhead s [.sym .pretree 19, .raw 1 z])
    (hrun : s.tmp.last < s.tmp.idx + (z + 4)) :
    fetchElement .pretreeItem s =
      .error (.raise .pretreeRunOvershoot) (passedAll s [.sym .pretree 19, .raw 1 z]) := by
  have hbit := fieldsAhead_passed h
  have hcheck := checkRun_of_lt (s := passed (passed s (.sym .pretree 19)) (.raw 1 z)) hrun
  rw [fetchElement, fetchPretreeItem, Proc.bind_of_ok (decodeTree_of_ahead h), if_pos rfl,
    Proc.bind_of_ok (readBits_of_ahead hz hbit), ← passedAll_passed h, ← passedAll_passed hbit, passedAll_nil]
  exact Proc.bind_of_error hcheck

/-- A pretree item that comes next, within its range. -/
theorem fetch_pretreeItem {fields : List Field} {i : Instr} (hdecode : decode (.element .pretreeItem fields) = .ok i)
    (h : fieldsAhead s fields)
    (hrun : ∀ (z : BitVec 1) (s2 : BitVec 5), i = .ptSame z s2 → s.tmp.idx + (z.toNat + 4) ≤ s.tmp.last) :
    fetchElement .pretreeItem s = .ok i (passedAll s fields) := by
  obtain ⟨m, rest, vs, rfl, hm, hvs, hi⟩ := decode_pretreeItem_eq_ok.1 hdecode
  by_cases h19 : m = 19
  · subst h19
    obtain ⟨z, s2, rfl, rfl, hz, hs2⟩ := fieldValues_pair_eq_ok.1 hvs
    have hz1 : (BitVec.ofNat 1 z).toNat = z := by rw [BitVec.toNat_ofNat, Nat.mod_eq_of_lt hz]
    exact fetch_pretreeItem_same hz hdecode h (hz1 ▸ hrun (BitVec.ofNat 1 z) _ hi.symm)
  · exact fetch_pretreeItem_plan h19 hdecode hvs h

end

/-- Settles O43, element by element. -/
theorem headerElementsFetched : Obligations.HeaderElementsFetched := by
  intro s
  refine ⟨fetch_transform, fetch_blockHeader, fetch_chunkHeader_explicit, fetch_chunkHeader_implicit, fun h => ?_,
    fetch_alignedLengths, fetch_pretree, fun _ => fetch_alignedLengths_missing, fun _ => fetch_pretree_missing,
    fun _ _ => fetch_pretreeItem, fun z h => fetch_pretreeItem_overshoot z.isLt h⟩
  have hself : skipped s (4 * 0) = s := by simp [skipped]
  simp only [hself]
  exact fetch_uncompReps h

end Sys2Proof.Machine

namespace Sys2Proof.Machine

open Sys2Proof.Safety

/-! ## Bits packed into frames -/

theorem bitsOf_eq_map (w v : Nat) : bitsOf w v = (List.range w).map fun j => v.testBit (w - 1 - j) := by
  induction w with
  | zero => rfl
  | succ w ih =>
    rw [bitsOf, ih, List.range_succ_eq_map, List.map_cons, List.map_map]
    refine congrArg₂ _ (by simp) (List.map_congr_left fun j _ => ?_)
    rw [Function.comp_apply, show w + 1 - 1 - j.succ = w - 1 - j by omega]

/-- The bits of the number of a bit list are the list. -/
theorem bitsOf_ofBits (l : List Bool) : bitsOf l.length (ofBits l) = l := by
  induction l with
  | nil => rfl
  | cons b l ih =>
    have hlt := ofBits_lt l
    have hlow : bitsOf l.length (ofBits (b :: l)) = bitsOf l.length (ofBits l) := by
      rw [bitsOf_eq_map, bitsOf_eq_map, ofBits_cons, Nat.mul_comm]
      refine List.map_congr_left fun j hj => ?_
      have hj := List.mem_range.1 hj
      rw [Nat.testBit_two_pow_mul_add _ hlt, if_pos (by omega)]
    have hhigh : (ofBits (b :: l)).testBit l.length = b := by
      rw [ofBits_cons, Nat.mul_comm, Nat.testBit_two_pow_mul_add _ hlt, if_neg (Nat.lt_irrefl _), Nat.sub_self]
      cases b <;> rfl
    rw [List.length_cons, bitsOf, hhigh, hlow, ih]

section
variable {s : State}

/-- The bytes ahead are the first `n` and the `m` after them. -/
theorem bytesAhead_add {n m : Nat} (h : s.byteOff + n < 4294967296) :
    bytesAhead s (n + m) = bytesAhead s n ++ bytesAhead (skipped s n) m := by
  simp only [bytesAhead, List.range_add, List.map_append, List.map_map, skipped_byteOff h]
  refine congrArg _ (List.map_congr_left fun j _ => ?_)
  rw [Function.comp_apply, ← Nat.add_assoc]
  rfl

/-- The bytes of a concatenation, part by part. -/
theorem bytesAhead_eq_append {n : Nat} {xs ys : List Byte} (hlt : s.byteOff + xs.length < 4294967296)
    (h : bytesAhead s n = xs ++ ys) :
    bytesAhead s xs.length = xs ∧ bytesAhead (skipped s xs.length) ys.length = ys := by
  have hn : n = xs.length + ys.length := by simpa [bytesAhead] using congrArg List.length h
  rw [hn, bytesAhead_add hlt] at h
  exact List.append_inj h (by simp [bytesAhead])

/-- At a frame boundary the next 16 bits are those of the next two bytes, the second one high (20_memory.md R50). -/
theorem streamBits_frame (h0 : s.bitOff = 0) {l : List Bool} (hl : l.length = 16)
    (h : bytesAhead s 2 = [BitVec.ofNat 8 (ofBits l), BitVec.ofNat 8 (ofBits l / 256)]) : streamBits s 16 = l := by
  have hlt : ofBits l < 65536 := by simpa [hl] using ofBits_lt l
  simp only [bytesAhead, List.range_succ, List.range_zero, List.nil_append, List.map_cons, List.map_nil,
    List.cons_append, List.cons.injEq, and_true, Nat.add_zero] at h
  have hframe : s.frame16 s.byteOff = ofBits l := by
    rw [State.frame16, h.1, h.2, BitVec.toNat_ofNat, BitVec.toNat_ofNat]
    omega
  have hbits := bitsOf_ofBits l
  rw [hl, bitsOf_eq_map] at hbits
  rw [← hbits, streamBits]
  refine List.map_congr_left fun j hj => ?_
  have hj := List.mem_range.1 hj
  rw [streamBit, h0, Nat.zero_add, Nat.div_eq_of_lt hj, Nat.mod_eq_of_lt hj, Nat.mul_zero, Nat.add_zero, hframe]

theorem streamBits_take {m n : Nat} (h : m ≤ n) : (streamBits s n).take m = streamBits s m := by
  rw [streamBits, ← List.map_take, List.take_range, Nat.min_eq_left h, streamBits]

theorem advanced_frame (h0 : s.bitOff = 0) : advanced s 16 = skipped s 2 := by
  rw [advanced_eq_withCursor, skipped_eq_withCursor, h0]

/-- Bits that were packed into frames come next as they were (20_memory.md R50, R51). -/
theorem streamBits_of_packFrames {k : Nat} {bits : List Bool} (h0 : s.bitOff = 0) (hk : bits.length ≤ 16 * k)
    (hin : s.byteOff + (packFrames k bits).length ≤ s.storeLen.toNat)
    (h : bytesAhead s (packFrames k bits).length = packFrames k bits) : streamBits s bits.length = bits := by
  induction k generalizing s bits with
  | zero =>
    obtain rfl : bits = [] := List.eq_nil_of_length_eq_zero (by omega)
    rfl
  | succ k ih =>
    by_cases hempty : bits = []
    · subst hempty
      rfl
    · have hlen := s.storeLen.isLt
      have hpack : packFrames (k + 1) bits =
          [BitVec.ofNat 8 (ofBits ((bits ++ List.replicate 16 false).take 16)),
            BitVec.ofNat 8 (ofBits ((bits ++ List.replicate 16 false).take 16) / 256)] ++
            packFrames k (bits.drop 16) := by
        rw [packFrames, if_neg (by simpa using hempty)]
        rfl
      rw [hpack] at h hin
      rw [List.length_append, List.length_cons, List.length_cons, List.length_nil] at hin
      obtain ⟨hfirst, hrest⟩ := bytesAhead_eq_append (by simp only [List.length_cons, List.length_nil]; omega) h
      have hframe := streamBits_frame h0 (by simp) hfirst
      by_cases hshort : bits.length ≤ 16
      · rw [← streamBits_take hshort, hframe, List.take_take, Nat.min_eq_left hshort, List.take_left]
      · have hpresent : framesPresent s 16 := .inr (by omega)
        have hskip : (skipped s 2).byteOff = s.byteOff + 2 := skipped_byteOff (by omega)
        have htail := ih (s := skipped s 2) (bits := bits.drop 16) h0 (by rw [List.length_drop]; omega)
          (by rw [hskip]; exact Nat.le_trans (by omega) hin) hrest
        have hsplit : bits.length = 16 + (bits.drop 16).length := by rw [List.length_drop]; omega
        rw [hsplit, streamBits_add hpresent, hframe, advanced_frame h0, htail, List.take_append_of_le_length (by omega),
          List.take_append_drop]

end

/-! ## The elements of an Uncompressed block -/

/-- A 16-bit number, its high byte first (45_framer.md R167). -/
def be16 (v : Nat) : List Byte := [BitVec.ofNat 8 (v / 256), BitVec.ofNat 8 v]

/-- A 32-bit number, its low byte first (20_memory.md R47). -/
def le32 (v : U32) : List Byte := (List.range 4).map fun k => BitVec.ofNat 8 (v.toNat / 256 ^ k)

theorem append_be16_toNat {v : Nat} (h : v < 65536) :
    (BitVec.ofNat 8 (v / 256) ++ BitVec.ofNat 8 v).toNat = v := by
  rw [BitVec.toNat_append, ← Nat.shiftLeft_add_eq_or_of_lt (BitVec.isLt _), Nat.shiftLeft_eq, BitVec.toNat_ofNat,
    BitVec.toNat_ofNat]
  omega

section
variable {s : State} {n : Nat}

theorem littleEndian_le32 {r : U32} (h : bytesAhead s 4 = le32 r) : littleEndian s 4 = r.toNat := by
  have hr := r.isLt
  rw [← leNat_store, ← bytesAhead_eq, h]
  simp only [le32, List.range_succ, List.range_zero, List.nil_append, List.map_cons, List.map_nil, List.cons_append,
    leNat, BitVec.toNat_ofNat]
  omega

theorem runNext_of_fetched {k : ElemKind} {i : Instr} {u : State} (h : fetchElement k s = .ok i u) :
    runNext k s = runElement i u := Proc.bind_of_ok h

/-- At a frame boundary, bits and the way to the next boundary pass the frames the bits touch. -/
theorem aligned_advanced (h0 : s.bitOff = 0) (h : framesPresent s n) :
    aligned (advanced s n) = skipped s (2 * ((n + 15) / 16)) := by
  obtain ⟨hbyte, hbit⟩ := advanced_cursors h
  rw [h0, Nat.zero_add] at hbyte hbit
  rw [aligned, hbyte, hbit, skipped_eq_withCursor, h0, positioned_eq_withCursor, advanced_eq_withCursor, h0,
    Nat.zero_add]
  split_ifs with hn
  · rw [hn]
    congr 1
    omega
  · rw [State.withCursor_withCursor]
    congr 1
    omega

/-- The explicit chunk header of two sizes. -/
theorem runNext_chunkHeader {fs bs : Nat} (hfs : fs < 65536) (hbs : bs < 65536)
    (hin : s.byteOff + 5 ≤ s.storeLen.toNat) (h : bytesAhead s 5 = [0xFF] ++ be16 fs ++ be16 bs) :
    runNext .chunkHeader s = .ok ()
      { skipped s 5 with
        frmConsumed := BitVec.ofNat 33 (s.frmConsumed.toNat + 5)
        tmp := { s.tmp with fs := fs, bs := bs } } := by
  have hbytes : s.storeByte s.byteOff = 0xFF ∧ s.storeByte (s.byteOff + 1) = BitVec.ofNat 8 (fs / 256) ∧
      s.storeByte (s.byteOff + 2) = BitVec.ofNat 8 fs ∧ s.storeByte (s.byteOff + 3) = BitVec.ofNat 8 (bs / 256) ∧
      s.storeByte (s.byteOff + 4) = BitVec.ofNat 8 bs := by
    simpa [bytesAhead, be16, List.range_succ] using h
  obtain ⟨hff, h1, h2, h3, h4⟩ := hbytes
  rw [runNext_of_fetched (fetch_chunkHeader_explicit hin hff), h1, h2, h3, h4]
  change chunkHeader _ _ 5 (skipped s 5) = _
  rw [append_be16_toNat hfs, append_be16_toNat hbs]
  rfl

/-- A session bit of 0 opens the session (43_lzx_blocks.md R140). -/
theorem sessionHeader_of_zero (hsession : s.headerRead = false) (hin : framesPresent s 1)
    (hbit : streamBits s 1 = [false]) : sessionHeader s = .ok () { advanced s 1 with headerRead := true } := by
  have hfirst : streamBit s 0 = false := by simpa [streamBits] using hbit
  rw [sessionHeader, Proc.bind_get, if_neg (by simp [hsession]), runNext_of_fetched (fetch_transform hin), hfirst]
  rfl

/-- A block header of type `011` (43_lzx_blocks.md R141). -/
theorem runNext_blockHeader_uncompressed (hin : framesPresent s 27)
    (hbits : streamBits s 27 = [false, true, true] ++ bitsOf 24 n) (hn : n < 2 ^ 24) :
    runNext .blockHeader s = .ok () { advanced s 27 with blockType := 3, blockRemaining := BitVec.ofNat 24 n } := by
  have htype : ofBits (streamBits s 3) = 3 := by
    rw [← streamBits_take (show 3 ≤ 27 by decide), hbits]
    rfl
  have hsize : ofBits ((streamBits s 27).drop 3) = n := by
    rw [hbits]
    change ofBits (bitsOf 24 n) = n
    rw [ofBits_bitsOf, Nat.mod_eq_of_lt hn]
  rw [runNext_of_fetched (fetch_blockHeader hin), htype, hsize]
  rfl

/-- The three repeated offsets (43_lzx_blocks.md R146). -/
theorem runNext_uncompReps {r0 r1 r2 : U32} (hin : s.byteOff + 12 ≤ s.storeLen.toNat)
    (h0 : bytesAhead s 4 = le32 r0) (h1 : bytesAhead (skipped s 4) 4 = le32 r1)
    (h2 : bytesAhead (skipped s 8) 4 = le32 r2) :
    runNext .uncompReps s = .ok () { skipped s 12 with rep0 := r0, rep1 := r1, rep2 := r2 } := by
  rw [runNext_of_fetched (fetch_uncompReps hin), littleEndian_le32 h0, littleEndian_le32 h1, littleEndian_le32 h2]
  simp only [BitVec.ofNat_toNat, BitVec.setWidth_eq]
  rfl

/-- The block header of an Uncompressed block: type and size, the way to the frame boundary, the offsets. -/
theorem readBlockHeader_uncompressed {r0 r1 r2 : U32} {u : State} (hin : framesPresent s 27)
    (hbits : streamBits s 27 = [false, true, true] ++ bitsOf 24 n) (hn : n < 2 ^ 24)
    (hu : alignCursor { advanced s 27 with blockType := 3, blockRemaining := BitVec.ofNat 24 n } = .ok () u)
    (hend : u.byteOff + 12 ≤ u.storeLen.toNat) (h0 : bytesAhead u 4 = le32 r0)
    (h1 : bytesAhead (skipped u 4) 4 = le32 r1) (h2 : bytesAhead (skipped u 8) 4 = le32 r2) :
    readBlockHeader s = .ok () { skipped u 12 with rep0 := r0, rep1 := r1, rep2 := r2 } := by
  rw [readBlockHeader, Proc.bind_of_ok (runNext_blockHeader_uncompressed hin hbits hn), Proc.bind_get]
  simp only [show (3 : BitVec 3) ≠ 2 by decide, show (3 : BitVec 3) ≠ 1 by decide, if_false, if_true]
  have halign : runNext .align { advanced s 27 with blockType := 3, blockRemaining := BitVec.ofNat 24 n } = .ok () u :=
    (runNext_of_fetched (i := .streamAlign) rfl).trans hu
  rw [Proc.bind_of_ok halign, runNext_uncompReps hend h0 h1 h2]

/-- The raw bytes of a run that ends within the chunk, from the start of the window (44_lzx_decode.md R163). -/
theorem runNext_uncompBytes {data : List Byte} (hrun : s.tmp.run = data.length) (hposn : s.windowPosn = 0)
    (hsize : data.length ≤ 65519) (hchunk : s.byteOff + data.length ≤ s.tmp.chunkStart + s.tmp.bs)
    (hin : s.byteOff + data.length ≤ s.storeLen.toNat) (hdata : bytesAhead s data.length = data) :
    ∃ w, writtenWindow s 0 data w ∧
      runNext .uncompBytes s = .ok ()
        { skipped s data.length with
          window := w
          windowPosn := BitVec.ofNat 17 data.length
          tmp := { s.tmp with run := 0 } } := by
  have hposn0 : s.windowPosn.toNat = 0 := congrArg BitVec.toNat hposn
  obtain ⟨w, hwrite, hwf, hget⟩ := writeWindow_ok (i := 0) (bs := data) (s := skipped s data.length) (by omega)
  refine ⟨w, ⟨hwf, hget⟩, ?_⟩
  have hread : readRaw data.length s = .ok data (skipped s data.length) := by
    rw [readRaw_of_le hin, ← bytesAhead_eq, hdata, skipped_eq_withCursor]
  rw [runNext_of_fetched (u := s) (i := .uncompBytes) rfl]
  change doUncompBytes s = _
  rw [doUncompBytes, Proc.bind_get, if_neg (by omega), hrun, hposn0, Proc.bind_of_ok hread, Proc.bind_of_ok hwrite,
    Nat.zero_add]
  rfl

/-- A run of the whole of an Uncompressed block. -/
theorem runStep_uncompressed {data : List Byte} (htype : s.blockType = 3)
    (hremaining : s.blockRemaining.toNat = data.length) (htogo : s.tmp.togo = data.length) (hposn : s.windowPosn = 0)
    (hsize : 1 ≤ data.length ∧ data.length ≤ 65519)
    (hchunk : s.byteOff + data.length ≤ s.tmp.chunkStart + s.tmp.bs)
    (hin : s.byteOff + data.length ≤ s.storeLen.toNat) (hdata : bytesAhead s data.length = data) :
    ∃ w, writtenWindow s 0 data w ∧
      runStep s = .ok ()
        { skipped s data.length with
          blockRemaining := 0
          window := w
          windowPosn := BitVec.ofNat 17 data.length
          tmp := { s.tmp with togo := 0, run := 0 } } := by
  obtain ⟨hpos, hle⟩ := hsize
  have hstart : startRun data.length s = .ok ()
      { s with blockRemaining := 0, windowPosn := 0, tmp := { s.tmp with togo := 0, run := data.length } } := by
    simp only [startRun, hposn, hremaining, htogo, Nat.sub_self]
    exact if_neg (by simp [windowSize]; omega)
  obtain ⟨w, hw, hbytes⟩ := runNext_uncompBytes
    (s := { s with blockRemaining := 0, windowPosn := 0, tmp := { s.tmp with togo := 0, run := data.length } })
    rfl rfl hle hchunk hin hdata
  refine ⟨w, hw, ?_⟩
  rw [runStep, Proc.bind_get]
  simp only [hremaining, htogo, Nat.min_self, if_neg (Nat.ne_of_gt hpos)]
  rw [Proc.bind_of_ok hstart, if_neg (by rw [htype]; decide)]
  exact hbytes

theorem frameLoop_done {k : Nat} (h : s.tmp.togo = 0) : frameLoop k s = .ok () s := by
  cases k with
  | zero => exact if_neg (by omega)
  | succ k =>
    rw [frameLoop, Proc.bind_get, if_neg (by omega)]
    rfl

/-- A frame of one block: its header is read, and one run is the whole frame. -/
theorem frameLoop_single {k : Nat} {u t : State} (htogo : 0 < s.tmp.togo) (hremaining : s.blockRemaining = 0)
    (hheader : readBlockHeader s = .ok () u) (hrun : runStep u = .ok () t) (ht : t.tmp.togo = 0) :
    frameLoop (k + 1) s = .ok () t := by
  rw [frameLoop, Proc.bind_get, if_pos htogo, if_pos hremaining]
  exact (Proc.bind_of_ok hheader).trans ((Proc.bind_of_ok hrun).trans (frameLoop_done ht))

/-- The cells of a frame that ends where its size says begin at cell 0. -/
theorem frameCells_start (hn : 1 ≤ n ∧ n ≤ 65536) : frameCells n n = List.range n := by
  rw [frameCells, if_neg (by omega)]
  simp only [List.bind_eq_flatMap, List.pure_def, ← List.map_eq_flatMap, List.map_map]
  refine (List.map_congr_left fun i hi => ?_).trans (List.map_id' _)
  have hi := List.mem_range.1 hi
  simp only [windowSize, Function.comp_apply]
  omega

/-- The output of a frame that fills the window from its start (44_lzx_decode.md R164). -/
theorem frameOutput_of_written {u : State} {data : List Byte} (hsize : 1 ≤ data.length ∧ data.length ≤ 65519)
    (hposn : s.windowPosn.toNat = data.length) (hw : writtenWindow u 0 data s.window) :
    frameOutput data.length s = .ok data s := by
  obtain ⟨hpos, hle⟩ := hsize
  rw [frameOutput, Proc.bind_get, hposn]
  rw [frameCells_start ⟨hpos, by omega⟩]
  refine readWindow_ok (List.ext_getElem (by simp) fun i h _ => ?_)
  have hi : i < data.length := by simpa using h
  simp [State.windowByte, hw.2 i, hi]

end

/-! ## O58: a container of one Uncompressed block -/

/-- The bytes of a chunk with one Uncompressed block in a new session: the session bit, type `011` and the size, packed
into frames, then the offsets and the raw bytes (43_lzx_blocks.md R140, R141, R146, 44_lzx_decode.md R163). -/
def uncompressedChunk (r0 r1 r2 : U32) (data : List Byte) : List Byte :=
  packFrames 2 ([false] ++ [false, true, true] ++ bitsOf 24 data.length) ++ le32 r0 ++ le32 r1 ++ le32 r2 ++ data

/-- At the start of a session, such a chunk comes next. -/
structure UncompressedChunkAhead (s : State) (r0 r1 r2 : U32) (data : List Byte) : Prop where
  session : s.headerRead = false
  remaining : s.blockRemaining = 0
  posn : s.windowPosn = 0
  boundary : s.bitOff = 0
  size : 1 ≤ data.length ∧ data.length ≤ 65519
  inStore : s.byteOff + (16 + data.length) ≤ s.storeLen.toNat
  bits : streamBits s 28 = false :: ([false, true, true] ++ bitsOf 24 data.length)
  rep0 : bytesAhead (skipped s 4) 4 = le32 r0
  rep1 : bytesAhead (skipped s 8) 4 = le32 r1
  rep2 : bytesAhead (skipped s 12) 4 = le32 r2
  bytes : bytesAhead (skipped s 16) data.length = data

/-- The session and the frame of the chunk begun, in its temporaries (43_lzx_blocks.md R139). -/
def chunkBegun (s : State) (n : Nat) : State :=
  { s with
    headerRead := true
    tmp := { s.tmp with chunkStart := s.byteOff, fs := n, bs := 16 + n, togo := n } }

/-- The type and the size of the block taken over (43_lzx_blocks.md R141). -/
def blockTyped (s : State) (n : Nat) : State :=
  { chunkBegun s n with blockType := 3, blockRemaining := BitVec.ofNat 24 n }

/-- The offsets taken over too (43_lzx_blocks.md R146). -/
def blockBegun (s : State) (r0 r1 r2 : U32) (n : Nat) : State :=
  { blockTyped s n with rep0 := r0, rep1 := r1, rep2 := r2 }

/-- The state after the chunk. -/
def afterUncompressedChunk (s : State) (r0 r1 r2 : U32) (data : List Byte) (w : Memory) : State :=
  { skipped (blockBegun s r0 r1 r2 data.length) (16 + data.length) with
    blockRemaining := 0
    window := w
    windowPosn := BitVec.ofNat 17 data.length
    tmp := { s.tmp with
      chunkStart := s.byteOff, fs := data.length, bs := 16 + data.length, togo := 0, run := 0 } }

section
variable {s : State} {r0 r1 r2 : U32} {data : List Byte}

/-- The parts of the chunk's bytes. -/
theorem uncompressedChunkAhead_of_bytes (hsession : s.headerRead = false) (hremaining : s.blockRemaining = 0)
    (hposn : s.windowPosn = 0) (hbit : s.bitOff = 0) (hsize : 1 ≤ data.length ∧ data.length ≤ 65519)
    (hin : s.byteOff + (16 + data.length) ≤ s.storeLen.toNat)
    (h : bytesAhead s (16 + data.length) = uncompressedChunk r0 r1 r2 data) :
    UncompressedChunkAhead s r0 r1 r2 data := by
  have hlen := s.storeLen.isLt
  have hskip {n m : Nat} (hn : n ≤ 16) : skipped (skipped s n) m = skipped s (n + m) := skipped_skipped (by omega)
  have hpart {k m : Nat} {xs ys : List Byte} (hk : k + xs.length ≤ 16)
      (hbytes : bytesAhead (skipped s k) m = xs ++ ys) :
      bytesAhead (skipped s k) xs.length = xs ∧ bytesAhead (skipped s (k + xs.length)) ys.length = ys := by
    have hoff : (skipped s k).byteOff = s.byteOff + k := skipped_byteOff (by omega)
    have hparts := bytesAhead_eq_append (by omega) hbytes
    rwa [hskip (by omega)] at hparts
  rw [uncompressedChunk, List.append_assoc, List.append_assoc, List.append_assoc] at h
  obtain ⟨hpacked, h⟩ := bytesAhead_eq_append (show s.byteOff + 4 < _ by omega) h
  obtain ⟨h0, h⟩ := hpart (show 4 + 4 ≤ 16 by decide) h
  obtain ⟨h1, h⟩ := hpart (show 8 + 4 ≤ 16 by decide) h
  obtain ⟨h2, h⟩ := hpart (show 12 + 4 ≤ 16 by decide) h
  have hstore : s.byteOff + 4 ≤ s.storeLen.toNat := by omega
  have hbits := streamBits_of_packFrames (bits := [false] ++ [false, true, true] ++ bitsOf 24 data.length) (k := 2) hbit
    (by rw [List.length_append, bitsOf_length]; decide) hstore hpacked
  exact
    { session := hsession, remaining := hremaining, posn := hposn, boundary := hbit, size := hsize, inStore := hin
      bits := hbits
      rep0 := h0, rep1 := h1, rep2 := h2, bytes := h }

/-- The session bit is passed, and the frame begins. -/
theorem session_uncompressedChunk (h : UncompressedChunkAhead s r0 r1 r2 data) :
    sessionHeader (s.withTmp fun t => { t with chunkStart := s.byteOff, fs := data.length, bs := 16 + data.length }) =
      .ok () { advanced s 1 with
        headerRead := true
        tmp := { s.tmp with chunkStart := s.byteOff, fs := data.length, bs := 16 + data.length } } := by
  have hin := h.inStore
  have hbit : streamBits s 1 = [false] := by
    rw [← streamBits_take (show 1 ≤ 28 by decide), h.bits]
    rfl
  have hpresent : framesPresent s 1 := .inr (by rw [h.boundary]; omega)
  exact sessionHeader_of_zero
    (s := s.withTmp fun t => { t with chunkStart := s.byteOff, fs := data.length, bs := 16 + data.length })
    h.session hpresent hbit

/-- The block header of the chunk. -/
theorem blockHeader_uncompressedChunk (h : UncompressedChunkAhead s r0 r1 r2 data) :
    readBlockHeader (advanced (chunkBegun s data.length) 1) =
      .ok () (skipped (blockBegun s r0 r1 r2 data.length) 16) := by
  have hin := h.inStore
  have hlen := s.storeLen.isLt
  have hsize := h.size.2
  have hpresent : framesPresent s 28 := .inr (by rw [h.boundary]; omega)
  have hfirst : framesPresent s 1 := framesPresent_mono hpresent (by decide)
  have hbits : streamBits (advanced s 1) 27 = [false, true, true] ++ bitsOf 24 data.length := by
    have hall := h.bits
    rw [show (28 : Nat) = 1 + 27 from rfl, streamBits_add hfirst] at hall
    exact (List.append_inj (s₁ := streamBits s 1) (s₂ := [false]) hall (by simp)).2
  have h4 : (skipped s 4).byteOff = s.byteOff + 4 := skipped_byteOff (by omega)
  have hskip (m : Nat) : skipped (skipped s 4) m = skipped s (4 + m) := skipped_skipped (by omega)
  have halign : alignCursor (advanced (advanced (blockTyped s data.length) 1) 27) =
      .ok () (skipped (blockTyped s data.length) 4) := by
    have hcursor := (advanced_cursors (s := blockTyped s data.length) (n := 28) hpresent).1
    have hbyte : (blockTyped s data.length).byteOff = s.byteOff := rfl
    have hbit : (blockTyped s data.length).bitOff = 0 := h.boundary
    have hall : advanced (advanced (blockTyped s data.length) 1) 27 = advanced (blockTyped s data.length) 28 :=
      advanced_advanced hfirst
    rw [hall, alignCursor_of_lt (.inr (by omega)), aligned_advanced (s := blockTyped s data.length) hbit hpresent]
  have hstore : (skipped s 4).byteOff + 12 ≤ s.storeLen.toNat := by omega
  have hrep1 : bytesAhead (skipped (skipped s 4) 4) 4 = le32 r1 := hskip 4 ▸ h.rep1
  have hrep2 : bytesAhead (skipped (skipped s 4) 8) 4 = le32 r2 := hskip 8 ▸ h.rep2
  have hheader := readBlockHeader_uncompressed (s := advanced (chunkBegun s data.length) 1) (n := data.length)
    (framesPresent_advanced hpresent) hbits (by omega) halign hstore h.rep0 hrep1 hrep2
  rw [skipped_skipped (s := blockTyped s data.length) (show s.byteOff + 4 < _ by omega)] at hheader
  exact hheader

/-- The run of the chunk. -/
theorem runStep_uncompressedChunk (h : UncompressedChunkAhead s r0 r1 r2 data) :
    ∃ w, writtenWindow s 0 data w ∧
      runStep (skipped (blockBegun s r0 r1 r2 data.length) 16) =
        .ok () (afterUncompressedChunk s r0 r1 r2 data w) := by
  have hin := h.inStore
  have hlen := s.storeLen.isLt
  have hsize := h.size.2
  have h16 : (skipped s 16).byteOff = s.byteOff + 16 := skipped_byteOff (by omega)
  have hremaining : (BitVec.ofNat 24 data.length).toNat = data.length := by
    rw [BitVec.toNat_ofNat, Nat.mod_eq_of_lt (by omega)]
  have hchunk : (skipped s 16).byteOff + data.length ≤ s.byteOff + (16 + data.length) := by omega
  have hstore : (skipped s 16).byteOff + data.length ≤ s.storeLen.toNat := by omega
  obtain ⟨w, hw, hrun⟩ := runStep_uncompressed (s := skipped (blockBegun s r0 r1 r2 data.length) 16) rfl hremaining rfl
    h.posn h.size hchunk hstore h.bytes
  refine ⟨w, hw, hrun.trans ?_⟩
  rw [skipped_skipped (s := blockBegun s r0 r1 r2 data.length) (show s.byteOff + 16 < _ by omega)]
  rfl

/-- Decompress() of such a chunk (43_lzx_blocks.md R139). -/
theorem decompress_uncompressedChunk (h : UncompressedChunkAhead s r0 r1 r2 data) :
    ∃ w, writtenWindow s 0 data w ∧
      decompress data.length (16 + data.length) s = .ok data (afterUncompressedChunk s r0 r1 r2 data w) := by
  obtain ⟨w, hw, hrun⟩ := runStep_uncompressedChunk h
  refine ⟨w, hw, ?_⟩
  have hframe (k : Nat) : frameLoop (k + 1) (advanced (chunkBegun s data.length) 1) =
      .ok () (afterUncompressedChunk s r0 r1 r2 data w) :=
    frameLoop_single h.size.1 h.remaining (blockHeader_uncompressedChunk h) hrun rfl
  have halign : alignCursor (afterUncompressedChunk s r0 r1 r2 data w) =
      .ok () (afterUncompressedChunk s r0 r1 r2 data w) := if_pos h.boundary
  have hposn : (BitVec.ofNat 17 data.length).toNat = data.length := by
    have hsize := h.size.2
    rw [BitVec.toNat_ofNat, Nat.mod_eq_of_lt (by omega)]
  have hout : frameOutput data.length (afterUncompressedChunk s r0 r1 r2 data w) =
      .ok data (afterUncompressedChunk s r0 r1 r2 data w) := frameOutput_of_written h.size hposn hw
  rw [decompress, Proc.bind_update]
  refine (Proc.bind_of_ok (session_uncompressedChunk h)).trans ?_
  rw [Proc.bind_update, Proc.bind_get]
  exact (Proc.bind_of_ok (hframe _)).trans ((Proc.bind_of_ok halign).trans hout)

/-! ### The framer -/

theorem chunkLoop_done {clen k : Nat} (h : clen ≤ s.frmConsumed.toNat) : chunkLoop clen k s = .ok () s := by
  cases k with
  | zero => exact if_neg (by omega)
  | succ k =>
    rw [chunkLoop, Proc.bind_get, if_neg (by omega)]
    rfl

/-- A container of one chunk: its header is read, its bytes are decompressed, and that is all (45_framer.md R166). -/
theorem chunkLoop_single {clen k : Nat} {u t : State} {out : List Byte} (hc : s.frmConsumed.toNat < clen)
    (hheader : runNext .chunkHeader s = .ok () u) (hfs : 1 ≤ u.tmp.fs ∧ u.tmp.fs ≤ frameBlockLimit)
    (hbs : 1 ≤ u.tmp.bs ∧ u.tmp.bs ≤ frameBlockLimit) (hrun : decompress u.tmp.fs u.tmp.bs u = .ok out t)
    (hend : clen ≤ (BitVec.ofNat 33 (t.frmConsumed.toNat + u.tmp.bs)).toNat) :
    chunkLoop clen (k + 1) s = .ok ()
      { t with
        frmOut := t.frmOut ++ out
        frmConsumed := BitVec.ofNat 33 (t.frmConsumed.toNat + u.tmp.bs) } := by
  obtain ⟨hfs, hfs'⟩ := hfs
  obtain ⟨hbs, hbs'⟩ := hbs
  rw [chunkLoop, Proc.bind_get, if_pos hc, Proc.bind_of_ok hheader, Proc.bind_get]
  simp only [if_neg (show ¬(u.tmp.bs = 0 ∨ u.tmp.fs = 0) by omega),
    if_neg (show ¬(frameBlockLimit < u.tmp.bs ∨ frameBlockLimit < u.tmp.fs) by omega)]
  rw [Proc.bind_of_ok hrun, Proc.bind_update]
  exact chunkLoop_done hend

/-- FRM_RUN begun: nothing consumed, no output (45_framer.md R166). -/
def framerBegun (s : State) : State := { s.begin 0x60 with frmConsumed := 0, frmOut := [] }

/-- The header of the chunk taken over. -/
def chunkHeaded (s : State) (n : Nat) : State :=
  { skipped s 5 with
    frmConsumed := 5
    frmOut := []
    tmp := { opcode := 0x60, fs := n, bs := 16 + n } }

/-- The state after the container. -/
def afterUncompressedContainer (s : State) (r0 r1 r2 : U32) (data : List Byte) (w : Memory) : State :=
  { afterUncompressedChunk (chunkHeaded s data.length) r0 r1 r2 data w with
    frmOut := data
    frmConsumed := BitVec.ofNat 33 (21 + data.length) }

/-- The chunk header of the container. -/
theorem chunkHeader_uncompressedContainer (hsize : 1 ≤ data.length ∧ data.length ≤ 65519)
    (hin : s.byteOff + (21 + data.length) ≤ s.storeLen.toNat)
    (h : bytesAhead s 5 = [0xFF] ++ be16 data.length ++ be16 (16 + data.length)) :
    runNext .chunkHeader (framerBegun s) = .ok () (chunkHeaded s data.length) :=
  runNext_chunkHeader (s := framerBegun s) (by omega) (by omega) (show s.byteOff + 5 ≤ s.storeLen.toNat by omega) h

/-- FRM_RUN of the container. -/
theorem doFrmRun_uncompressedContainer (hsize : 1 ≤ data.length ∧ data.length ≤ 65519)
    (hin : s.byteOff + (21 + data.length) ≤ s.storeLen.toNat)
    (hheader : bytesAhead s 5 = [0xFF] ++ be16 data.length ++ be16 (16 + data.length))
    (h : UncompressedChunkAhead (chunkHeaded s data.length) r0 r1 r2 data) :
    ∃ w, writtenWindow s 0 data w ∧
      doFrmRun (BitVec.ofNat 32 (21 + data.length)) (BitVec.ofNat 32 data.length) (s.begin 0x60) =
        .ok (.bytes data) (afterUncompressedContainer s r0 r1 r2 data w) := by
  obtain ⟨w, hw, hrun⟩ := decompress_uncompressedChunk h
  refine ⟨w, hw, ?_⟩
  obtain ⟨hpos, hle⟩ := hsize
  have hclen : (BitVec.ofNat 32 (21 + data.length)).toNat = 20 + data.length + 1 := by
    rw [BitVec.toNat_ofNat, Nat.mod_eq_of_lt (by omega)]
    omega
  have hdlen : (BitVec.ofNat 32 data.length).toNat = data.length := by
    rw [BitVec.toNat_ofNat, Nat.mod_eq_of_lt (by omega)]
  have hconsumed : 5 + (16 + data.length) = 21 + data.length := by omega
  have hend : 20 + data.length + 1 ≤ (BitVec.ofNat 33 (5 + (16 + data.length))).toNat := by
    rw [BitVec.toNat_ofNat, Nat.mod_eq_of_lt (by omega)]
    omega
  have hloop (k : Nat) : chunkLoop (20 + data.length + 1) (k + 1) (framerBegun s) =
      .ok () (afterUncompressedContainer s r0 r1 r2 data w) := by
    rw [afterUncompressedContainer, ← hconsumed]
    exact chunkLoop_single (show 0 < 20 + data.length + 1 by omega)
      (chunkHeader_uncompressedContainer ⟨hpos, hle⟩ hin hheader) ⟨hpos, show data.length ≤ 65536 by omega⟩
      ⟨show 1 ≤ 16 + data.length by omega, show 16 + data.length ≤ 65536 by omega⟩ hrun hend
  rw [doFrmRun, Proc.bind_update, hclen, hdlen]
  refine (Proc.bind_of_ok (hloop _)).trans ?_
  rw [Proc.bind_get]
  exact congrFun (if_pos rfl) _

/-- The container's response, and what of the state differs from the one before. -/
theorem answer_uncompressedContainer {w : Memory} (h : s.byteOff + 5 < 4294967296) :
    (afterUncompressedContainer s r0 r1 r2 data w).answer (.ok (.bytes data)) =
      succeeded (.bytes data) { skipped s (21 + data.length) with
        rep0 := r0, rep1 := r1, rep2 := r2, headerRead := true, blockType := 3, blockRemaining := 0
        window := w, windowPosn := BitVec.ofNat 17 data.length
        frmConsumed := BitVec.ofNat 33 (21 + data.length), frmOut := data } := by
  have hskip : skipped s (21 + data.length) = skipped (skipped s 5) (16 + data.length) := by
    rw [skipped_skipped h]
    congr 1
    omega
  rw [hskip, afterUncompressedContainer, chunkHeaded]
  generalize skipped s 5 = u
  rfl

end

/-- Settles O58: the container's first five bytes are the chunk header, and the rest is the chunk that Decompress()
reads part by part. -/
theorem framedUncompressedBlockDecodes : Obligations.FramedUncompressedBlockDecodes := by
  unfold Obligations.FramedUncompressedBlockDecodes
  intro s r0 r1 r2 data
  dsimp only
  intro hfault hsession hremaining hposn hbit hpos hle hin hbytes
  have hlen := s.storeLen.isLt
  have hsplit : bytesAhead s (21 + data.length) =
      ([0xFF] ++ be16 data.length ++ be16 (16 + data.length)) ++ uncompressedChunk r0 r1 r2 data := by
    simpa only [uncompressedChunk, be16, le32, List.append_assoc] using hbytes
  obtain ⟨hheader, hchunk⟩ := bytesAhead_eq_append (show s.byteOff + 5 < _ by omega) hsplit
  have hboundary : s.bitOff = 0 := congrArg BitVec.toNat hbit
  have hoff : (skipped s 5).byteOff = s.byteOff + 5 := skipped_byteOff (by omega)
  have hlength : (uncompressedChunk r0 r1 r2 data).length = 16 + data.length := by
    have hcount : (bytesAhead s (21 + data.length)).length = 21 + data.length := by simp [bytesAhead]
    rw [hsplit, List.length_append, show List.length ([0xFF] ++ be16 _ ++ be16 _) = 5 from rfl] at hcount
    omega
  rw [hlength] at hchunk
  have hahead : UncompressedChunkAhead (chunkHeaded s data.length) r0 r1 r2 data :=
    uncompressedChunkAhead_of_bytes hsession hremaining hposn hboundary ⟨hpos, hle⟩
      (show (skipped s 5).byteOff + (16 + data.length) ≤ s.storeLen.toNat by omega) hchunk
  obtain ⟨w, hw, hrun⟩ := doFrmRun_uncompressedContainer ⟨hpos, hle⟩ hin hheader hahead
  refine ⟨w, hw, (command_of_ok hfault hrun).trans ?_⟩
  rw [answer_uncompressedContainer (by omega)]

end Sys2Proof.Machine

/-!
PROOFS of 41_buffer.md. How a command of the buffer ends, said once for a procedure that returns and for one that
raises; then the commands section by section: the position commands (O26), the byte reads (O21 to O25), the bit reads
and SET_BIT_POS (O27, O29, O30); and what all of them, the observations and HUF_DECODE leave unchanged (O18).
-/

namespace Sys2Proof.Machine

open Sys2Proof.Safety

/-! ## How a command ends -/

section
variable {op : BitVec 8} {p : Proc Result} {s t : State}

/-- The temporaries that a command has begun with are gone at its end (10_state.md R38). -/
theorem command_succeeded {r : Result} (hs : s.faulted = false) (hp : p (s.begin op) = .ok r (t.begin op)) :
    command op p s = .next (succeeded r t) :=
  command_of_ok (t := t.begin op) hs hp

/-- The fault is recorded under the command's own opcode (60_exceptions.md R175). -/
theorem command_faulting {c : Cause} (hs : s.faulted = false) (hp : p (s.begin op) = .error (.raise c) (t.begin op)) :
    command op p s = .next (faulting op c t) :=
  command_of_raise (t := t.begin op) hs hp

end

/-! ## The position commands -/

section
variable {s : State} {b : Nat}

/-- A write of BYTE_OFFSET keeps BIT_OFFSET (41_buffer.md R89). -/
theorem writeByteOffset_of_lt (h : b < 2 ^ 32) :
    writeByteOffset b s = .ok () { s with byteOffset := BitVec.ofNat 32 b } := by
  rw [writeByteOffset_run, writeCursor_of_lt _ _ h, State.withCursor, State.ofNat_bitOff]

theorem writeByteOffset_of_le (h : 2 ^ 32 ≤ b) : writeByteOffset b s = .error (.raise .badOperand) s :=
  writeCursor_of_le _ _ h

theorem exec_seekAbs (a : U32) (hs : s.faulted = false) :
    exec (.seekAbs a) s = .next (succeeded .empty { s with byteOffset := a }) := by
  have hwrite := writeByteOffset_of_lt (s := s.begin 0x01) a.isLt
  rw [BitVec.ofNat_toNat, BitVec.setWidth_eq] at hwrite
  exact command_succeeded (t := { s with byteOffset := a }) hs (Proc.bind_of_ok hwrite)

/-- SEEK_REL to a target within the address space, after the clamp at 0 (41_buffer.md R96). -/
theorem exec_seekRel_of_lt {d : U32} (hs : s.faulted = false) (hb : ((s.byteOff : Int) + d.toInt).toNat = b)
    (h : b < 2 ^ 32) :
    exec (.seekRel d) s = .next (succeeded .empty { s with byteOffset := BitVec.ofNat 32 b }) := by
  subst hb
  exact command_succeeded (t := { s with byteOffset := _ }) hs
    (Proc.bind_of_ok (writeByteOffset_of_lt (s := s.begin 0x02) h))

theorem exec_seekRel_of_le {d : U32} (hs : s.faulted = false) (h : 2 ^ 32 ≤ ((s.byteOff : Int) + d.toInt).toNat) :
    exec (.seekRel d) s = .next (faulting 0x02 .badOperand s) :=
  command_faulting hs (Proc.bind_of_error (p := writeByteOffset _) (writeByteOffset_of_le (s := s.begin 0x02) h))

end

/-- Settles O26: the target of SEEK_REL is below 0, in the address space, or past it. -/
theorem seekCommands : Obligations.SeekCommands := by
  intro s a d hs
  refine ⟨exec_seekAbs a hs, ?_, command_succeeded hs rfl⟩
  dsimp only
  rw [← toInt_eq_signed]
  split_ifs with hneg hlt
  · exact exec_seekRel_of_lt (b := 0) hs (Int.toNat_of_nonpos (by omega)) (by decide)
  · exact exec_seekRel_of_lt hs rfl (by omega)
  · exact exec_seekRel_of_le hs (by omega)

/-! ## Reads of raw bytes and of numbers -/

section
variable {op : BitVec 8} {s : State} {n : Nat}

/-- ReadRaw(n) within STORE passes the bytes it returns (41_buffer.md R94). -/
theorem readRaw_skipped (h : s.byteOff + n ≤ s.storeLen.toNat) :
    readRaw n s = .ok (bytesAhead s n) (skipped s n) := by
  rw [readRaw_of_le h, skipped_eq_withCursor, bytesAhead_eq]

theorem command_readNumber_of_le (value : List Byte → Result) (hs : s.faulted = false)
    (h : s.byteOff + n ≤ s.storeLen.toNat) :
    command op (readNumber n value) s = .next (succeeded (value (bytesAhead s n)) (skipped s n)) :=
  command_succeeded (t := skipped s n) hs (Proc.bind_of_ok (readRaw_skipped (s := s.begin op) h))

theorem command_readNumber_of_not_le (value : List Byte → Result) (hs : s.faulted = false)
    (h : ¬s.byteOff + n ≤ s.storeLen.toNat) :
    command op (readNumber n value) s = .next (faulting op .readPastEnd s) :=
  command_faulting hs (Proc.bind_of_error (readRaw_of_lt (s := s.begin op) (Nat.not_le.1 h)))

/-- An unsigned little-endian number, or a bit pattern of that byte order. -/
theorem command_readLE (hs : s.faulted = false) (h : s.byteOff + n ≤ s.storeLen.toNat) :
    command op (readNumber n fun bs => .nat (leNat bs)) s =
      .next (succeeded (.nat (littleEndian s n)) (skipped s n)) := by
  rw [command_readNumber_of_le _ hs h, bytesAhead_eq, leNat_store]

/-- An unsigned big-endian number, or a bit pattern of that byte order. -/
theorem command_readBE (hs : s.faulted = false) (h : s.byteOff + n ≤ s.storeLen.toNat) :
    command op (readNumber n fun bs => .nat (beNat bs)) s =
      .next (succeeded (.nat (bigEndian s n)) (skipped s n)) := by
  rw [command_readNumber_of_le _ hs h, bytesAhead_eq, beNat_store]

theorem command_readSignedLE (hs : s.faulted = false) (h : s.byteOff + n ≤ s.storeLen.toNat) :
    command op (readNumber n fun bs => .int (sext (8 * n) (leNat bs))) s =
      .next (succeeded (.int (signed (8 * n) (littleEndian s n))) (skipped s n)) := by
  rw [command_readNumber_of_le _ hs h, bytesAhead_eq, leNat_store, sext_eq_signed (littleEndian_lt s n)]

theorem command_readSignedBE (hs : s.faulted = false) (h : s.byteOff + n ≤ s.storeLen.toNat) :
    command op (readNumber n fun bs => .int (sext (8 * n) (beNat bs))) s =
      .next (succeeded (.int (signed (8 * n) (bigEndian s n))) (skipped s n)) := by
  rw [command_readNumber_of_le _ hs h, bytesAhead_eq, beNat_store, sext_eq_signed (bigEndian_lt s n)]

end

/-- Settles O21: each read is a number of its width in its byte order, or past the end. -/
theorem smallIntegerReads : Obligations.SmallIntegerReads := by
  intro s hs
  constructor
  · split_ifs with h
    · exact ⟨command_readLE hs h, command_readSignedLE (n := 1) hs h⟩
    · and_intros <;> exact command_readNumber_of_not_le _ hs h
  · split_ifs with h
    · exact ⟨command_readLE hs h, command_readBE hs h, command_readSignedLE (n := 2) hs h,
        command_readSignedBE (n := 2) hs h⟩
    · and_intros <;> exact command_readNumber_of_not_le _ hs h

/-- Settles O22: as for the small reads; the value of a float read is its bytes as an unsigned number. -/
theorem wideReads : Obligations.WideReads := by
  intro s hs
  constructor
  · split_ifs with h
    · exact ⟨command_readLE hs h, command_readBE hs h, command_readSignedLE (n := 4) hs h,
        command_readSignedBE (n := 4) hs h, command_readLE hs h, command_readBE hs h⟩
    · and_intros <;> exact command_readNumber_of_not_le _ hs h
  · split_ifs with h
    · exact ⟨command_readLE hs h, command_readBE hs h⟩
    · and_intros <;> exact command_readNumber_of_not_le _ hs h

section
variable {s : State} {n : U32}

theorem exec_peekBytes_of_le (hs : s.faulted = false) (h : s.byteOff + n.toNat ≤ s.storeLen.toNat) :
    exec (.peekBytes n) s = .next (succeeded (.bytes (bytesAhead s n.toNat)) s) :=
  command_succeeded hs (Proc.bind_of_ok (memRead_of_le (s := s.begin 0x04) h))

theorem exec_peekBytes_of_not_le (hs : s.faulted = false) (h : ¬s.byteOff + n.toNat ≤ s.storeLen.toNat) :
    exec (.peekBytes n) s = .next (faulting 0x04 .readPastEnd s) :=
  command_faulting hs (Proc.bind_of_error (p := memRead _ _) (memRead_of_lt (s := s.begin 0x04) (Nat.not_le.1 h)))

/-- READ_LZX_INT16 is the big-endian read of two bytes (20_memory.md R49). -/
theorem doReadLzxInt16_eq : doReadLzxInt16 = readNumber 2 fun bs => .nat (beNat bs) :=
  bind_assoc _ _ _

theorem bigEndian_two (s : State) :
    bigEndian s 2 = (s.storeByte s.byteOff).toNat * 2 ^ 8 + (s.storeByte (s.byteOff + 1)).toNat := by
  simp [bigEndian, List.range_succ]

theorem exec_readLzxInt16 (s : State) :
    exec .readLzxInt16 s = command 0x22 (readNumber 2 fun bs => .nat (beNat bs)) s := by
  rw [← doReadLzxInt16_eq]
  rfl

end

/-- Settles O23: READ_BYTES and READ_LZX_INT16 are ReadRaw with a value formula, PEEK_BYTES is MemRead alone. -/
theorem rawByteReads : Obligations.RawByteReads := by
  intro s n hs
  constructor
  · split_ifs with h
    · exact ⟨command_readNumber_of_le .bytes hs h, exec_peekBytes_of_le hs h⟩
    · exact ⟨command_readNumber_of_not_le .bytes hs h, exec_peekBytes_of_not_le hs h⟩
  · rw [exec_readLzxInt16, ← bigEndian_two]
    split_ifs with h
    · exact command_readBE hs h
    · exact command_readNumber_of_not_le _ hs h

/-! ## READ_7BIT and READ_STRING -/

section
variable {s : State} {k : Nat}

theorem readVarint_skipped (h : varintAhead s k) : readVarint s = .ok (varint s (k + 1)) (skipped s (k + 1)) := by
  rw [readVarint_of_ahead h, skipped_eq_withCursor]

/-- A command that begins with a 7-bit integer has its faults, and the bytes read before one stay consumed
(41_buffer.md R115, R116). -/
theorem command_readVarint_faults (op : BitVec 8) (f : Nat → Proc Result) (hs : s.faulted = false) :
    (continued s 5 → command op (readVarint >>= f) s = .next (faulting op .noTerminator (skipped s 5))) ∧
    (∀ k < 5, continued s k → s.byteOff + k = s.storeLen.toNat →
      command op (readVarint >>= f) s = .next (faulting op .readPastEnd (skipped s k))) ∧
    (s.storeLen.toNat < s.byteOff → command op (readVarint >>= f) s = .next (faulting op .readPastEnd s)) := by
  refine ⟨fun h => ?_, fun k hk h hend => ?_, fun h => ?_⟩
  · rw [skipped_eq_withCursor]
    exact command_faulting (t := s.withCursor _ _) hs (Proc.bind_of_error (readVarint_unterminated (s := s.begin op) h))
  · rw [skipped_eq_withCursor]
    exact command_faulting (t := s.withCursor _ _) hs
      (Proc.bind_of_error (readVarint_short (s := s.begin op) hk h hend.ge))
  · exact command_faulting hs (Proc.bind_of_error (readVarint_past (s := s.begin op) h))

/-- After its length, READ_STRING is a ReadRaw (41_buffer.md R116). -/
theorem doReadString_of_ahead (h : varintAhead s k) :
    doReadString s = readNumber (varint s (k + 1)) .bytes (skipped s (k + 1)) :=
  Proc.bind_of_ok (readVarint_skipped h)

theorem exec_readString_of_ahead (hs : s.faulted = false) (h : varintAhead s k) :
    if s.byteOff + (k + 1) + varint s (k + 1) ≤ s.storeLen.toNat then
      exec .readString s = .next (succeeded (.bytes (bytesAhead (skipped s (k + 1)) (varint s (k + 1))))
        (skipped s (k + 1 + varint s (k + 1))))
    else exec .readString s = .next (faulting 0x21 .readPastEnd (skipped s (k + 1))) := by
  have ⟨_, _, hlast, _⟩ := h
  have hlt : s.byteOff + (k + 1) < 4294967296 := Nat.lt_of_le_of_lt hlast s.storeLen.isLt
  have hrun := doReadString_of_ahead (s := s.begin 0x21) h
  rw [← skipped_byteOff hlt, ← skipped_skipped hlt]
  split_ifs with hin
  · exact command_succeeded (t := skipped (skipped s (k + 1)) _) hs
      (hrun.trans (Proc.bind_of_ok (readRaw_skipped (s := skipped (s.begin 0x21) (k + 1)) hin)))
  · exact command_faulting (t := skipped s (k + 1)) hs
      (hrun.trans (Proc.bind_of_error (readRaw_of_lt (s := skipped (s.begin 0x21) (k + 1)) (Nat.not_le.1 hin))))

end

/-- Settles O24: READ_7BIT returns the integer that stands ahead; its faults are those of any command that begins with
one. -/
theorem sevenBitIntegers : Obligations.SevenBitIntegers := by
  intro s hs
  refine ⟨fun k h => ?_, command_readVarint_faults 0x20 _ hs⟩
  exact command_succeeded (t := skipped s (k + 1)) hs (Proc.bind_of_ok (readVarint_skipped (s := s.begin 0x20) h))

/-- Settles O25: once the length is read, its bytes are there or not. -/
theorem lengthPrefixedStrings : Obligations.LengthPrefixedStrings := by
  intro s hs
  exact ⟨fun k h => exec_readString_of_ahead hs h, command_readVarint_faults 0x21 _ hs⟩

/-! ## The bit commands -/

section
variable {s : State} {n : U32}

theorem pastFrames_begin (s : State) (op : BitVec 8) : pastFrames (s.begin op) = (pastFrames s).begin op :=
  (apply_ite (·.begin op) (s.byteOff + 2 ≤ s.storeLen.toNat) (positioned s (s.byteOff + 2) 0) s).symm

/-- READ_BITS over a missing frame faults past the frame it has begun in (41_buffer.md R90, R118). -/
theorem exec_readBits_of_missing (hs : s.faulted = false) (hn : ¬16 < n.toNat) (h : ¬framesPresent s n.toNat) :
    exec (.readBits n) s = .next (faulting 0x30 .readPastEnd (pastFrames s)) := by
  have hread := readBits_pastFrames (s := s.begin 0x30) (Nat.not_lt.1 hn) h
  rw [pastFrames_begin] at hread
  refine command_faulting (t := pastFrames s) hs ?_
  rw [doReadBits, if_neg hn, Proc.bind_of_error hread]

theorem exec_readBits_of_lt (hs : s.faulted = false) (hn : 16 < n.toNat) :
    exec (.readBits n) s = .next (faulting 0x30 .badOperand s) :=
  command_faulting hs (congrFun (if_pos hn) (s.begin 0x30))

theorem exec_peekBits_of_missing (hs : s.faulted = false) (hn : ¬32 < n.toNat) (h : ¬framesPresent s n.toNat) :
    exec (.peekBits n) s = .next (faulting 0x31 .readPastEnd s) := by
  refine command_faulting hs ?_
  rw [doPeekBits, if_neg hn, Proc.bind_of_error (peekBits_of_missing (s := s.begin 0x31) h)]

theorem exec_peekBits_of_lt (hs : s.faulted = false) (hn : 32 < n.toNat) :
    exec (.peekBits n) s = .next (faulting 0x31 .badOperand s) :=
  command_faulting hs (congrFun (if_pos hn) (s.begin 0x31))

end

/-- Settles O29: the width is checked first; then the frames are all there, or the first one only, or not even that. -/
theorem bitReads : Obligations.BitReads := by
  intro s n hs
  split_ifs with hn hframes hfirst
  · exact exec_readBits_of_lt hs hn
  · exact exec_readBits_of_present hs (Nat.not_lt.1 hn) hframes
  · rw [exec_readBits_of_missing hs hn hframes, pastFrames, if_pos hfirst]
  · rw [exec_readBits_of_missing hs hn hframes, pastFrames, if_neg hfirst]

/-- Settles O30: as for the read, with wider fields and no move. -/
theorem bitPeeks : Obligations.BitPeeks := by
  intro s n hs
  split_ifs with hn hframes
  · exact exec_peekBits_of_lt hs hn
  · exact exec_peekBits_of_present hs (Nat.not_lt.1 hn) hframes
  · exact exec_peekBits_of_missing hs hn hframes

/-- Settles O27: floor division by 16 is the model's division, since 16 is positive; the clamp at 0 is that of the
conversion to an address. -/
theorem bitPositionNormalises : Obligations.BitPositionNormalises := by
  intro s v hs
  dsimp only
  rw [← toInt_eq_signed, Int.fdiv_eq_ediv_of_nonneg _ (by decide), Int.fmod_eq_emod_of_nonneg _ (by decide)]
  split_ifs with hle
  · have hwide : 4294967296 ≤ ((s.byteOff : Int) + 2 * (v.toInt / 16)).toNat := by omega
    exact command_faulting hs (Proc.bind_of_error (writeCursor_of_le _ (s.begin 0x32) hwide))
  · have hlt : ((s.byteOff : Int) + 2 * (v.toInt / 16)).toNat < 4294967296 := by omega
    rw [show ∀ t : Int, (max t 0).toNat = t.toNat by omega]
    exact command_succeeded (t := positioned s _ _) hs (Proc.bind_of_ok (writeCursor_of_lt _ (s.begin 0x32) hlt))

/-! ## What the buffer and HUF_DECODE leave unchanged -/

/-- The state after a move of the cursors. -/
def Moved (s t : State) : Prop := ∃ b k, t = s.withCursor b k

theorem Moved.preorder : Preorder Moved where
  refl s := ⟨s.byteOff, s.bitOff, s.withCursor_self.symm⟩
  trans := by
    rintro s _ _ ⟨b, k, rfl⟩ ⟨b', k', rfl⟩
    exact ⟨b', k', s.withCursor_withCursor b k b' k'⟩

/-- A procedure that writes the cursors at most. -/
abbrev Moves {α : Type} (p : Proc α) : Prop := Leads Moved p

section
variable {α β : Type}

theorem Moves.pure (a : α) : Moves (Pure.pure a : Proc α) := Keeps.pure Moved.preorder a

theorem Moves.raise (c : Cause) : Moves (raise c : Proc α) := Keeps.raise Moved.preorder c

theorem Moves.bind {p : Proc α} {f : α → Proc β} (hp : Moves p) (hf : ∀ a, Moves (f a)) : Moves (p >>= f) :=
  Keeps.bind Moved.preorder hp hf

theorem Moves.of_stays {p : Proc α} (h : ∀ s, Proc.left (p s) = s) : Moves p :=
  Leads.of_left fun s => (h s).symm ▸ Moved.preorder.refl s

end

theorem moves_writeCursor (b k : Nat) : Moves (writeCursor b k) := Leads.of_left fun s => by
  rcases writeCursor_cases b k s with ⟨-, h⟩ | ⟨-, h⟩ <;> rw [h]
  · exact ⟨b, k, rfl⟩
  · exact Moved.preorder.refl s

theorem moves_writeByteOffset (b : Nat) : Moves (writeByteOffset b) :=
  Leads.of_left fun s => (moves_writeCursor b s.bitOff s trivial).2

theorem moves_memRead (a n : Nat) : Moves (memRead a n) := Moves.of_stays fun s => by
  unfold memRead
  split <;> rfl

theorem moves_readRaw (n : Nat) : Moves (readRaw n) :=
  Leads.bind_get fun _ => (moves_memRead _ _).bind fun _ => (moves_writeByteOffset _).bind fun _ => Moves.pure _

theorem moves_readByte : Moves readByte := (moves_readRaw 1).bind fun _ => Moves.pure _

theorem moves_varintLoop (n i r : Nat) : Moves (varintLoop n i r) := by
  induction n generalizing i r with
  | zero => exact Moves.raise _
  | succ n ih => exact moves_readByte.bind fun _ => Keeps.ite (fun _ => Moves.pure _) fun _ => ih _ _

theorem moves_readBits (n : Nat) : Moves (readBits n) := by
  refine Leads.bind_get fun s => ?_
  split
  · exact (moves_writeCursor _ _).bind fun _ => Moves.pure _
  · exact (moves_writeCursor _ _).bind fun _ => Moves.raise _

theorem moves_peekBits (n : Nat) : Moves (peekBits n) := Moves.of_stays fun s => by
  rcases peekBits_cases n s with ⟨-, h⟩ | ⟨-, h⟩ <;> rw [h] <;> rfl

theorem moves_alignCursor : Moves alignCursor := Leads.of_left fun s => by
  rw [alignCursor_run]
  split
  · exact Moved.preorder.refl s
  · exact (moves_writeCursor _ _ s trivial).2

theorem moves_setBitPos (v : Int) : Moves (setBitPos v) := Leads.of_left fun s => (moves_writeCursor _ _ s trivial).2

theorem moves_walkTable (t : List Leaf) (w n k : Nat) : Moves (walkTable t w n k) := by
  induction n generalizing k with
  | zero => exact Moves.raise _
  | succ n ih =>
    unfold walkTable
    split
    · exact Moves.pure _
    · exact Moves.raise _
    · exact ih _

theorem moves_passSymbol (sym len : Nat) : Moves (passSymbol sym len) :=
  Leads.bind_get fun _ => (moves_setBitPos _).bind fun _ => Moves.pure _

theorem moves_decodeSym (t : List Leaf) (lenOf : Nat → Nat) (tb : Nat) : Moves (decodeSym t lenOf tb) := by
  refine (moves_peekBits tb).bind fun p => ?_
  split
  · exact moves_passSymbol _ _
  · exact Moves.raise _
  · exact (moves_peekBits 32).bind fun w => (moves_walkTable _ _ _ _).bind fun sym => moves_passSymbol _ _

theorem moves_doRegRead (a : U32) : Moves (doRegRead a) := by
  refine Leads.bind_get fun s => ?_
  split
  · exact Moves.pure _
  · exact Moves.raise _

theorem moves_doArrayRead (a b : U32) : Moves (doArrayRead a b) := by
  refine Leads.bind_get fun s => ?_
  split
  · exact Moves.pure _
  · exact Moves.raise _

theorem moves_doHufDecode : Moves doHufDecode :=
  Leads.bind_get fun _ =>
    Keeps.ite (fun _ => (moves_decodeSym _ _ _).bind fun _ => Moves.pure _) fun _ => Moves.raise _

theorem moves_readNumber (n : Nat) (value : List Byte → Result) : Moves (readNumber n value) :=
  (moves_readRaw n).bind fun _ => Moves.pure _

/-- The opcodes of the buffer, of the observations and of HUF_DECODE. -/
abbrev bufferOpcodes : List (BitVec 8) :=
  [0x01, 0x02, 0x03, 0x04, 0x05, 0x06, 0x07, 0x10, 0x11, 0x12, 0x13, 0x14, 0x15, 0x16, 0x17, 0x18, 0x19, 0x1A, 0x1B,
    0x1C, 0x1D, 0x20, 0x21, 0x22, 0x30, 0x31, 0x32, 0x33, 0x41]

/-- Each of these commands runs a procedure that writes the cursors at most. -/
theorem exec_moves {op : BitVec 8} (a b : U32) (data : List Byte) (hop : op ∈ bufferOpcodes) :
    ∃ p, Runs ⟨op, a, b, data⟩ p ∧ Moves p := by
  rcases opcode_cases ⟨op, a, b, data⟩ with h | h | h | h | h
  · exact absurd ((by decide : bufferOpcodes ⊆ legalOpcodes) hop) h
  · rcases h with rfl | rfl | rfl | rfl | rfl | rfl | rfl
    · exact ⟨doSeekAbs a, .inl fun _ => rfl, (moves_writeByteOffset _).bind fun _ => Moves.pure _⟩
    · exact ⟨doSeekRel a, .inl fun _ => rfl,
        Leads.bind_get fun _ => (moves_writeByteOffset _).bind fun _ => Moves.pure _⟩
    · exact ⟨doReadBytes a, .inl fun _ => rfl, moves_readNumber _ .bytes⟩
    · exact ⟨doPeekBytes a, .inl fun _ => rfl, Leads.bind_get fun _ => (moves_memRead _ _).bind fun _ => Moves.pure _⟩
    · exact ⟨doGetPos, .inl fun _ => rfl, Leads.bind_get fun _ => Moves.pure _⟩
    · exact ⟨doRegRead a, .inr fun _ => rfl, moves_doRegRead a⟩
    · exact ⟨doArrayRead a b, .inr fun _ => rfl, moves_doArrayRead a b⟩
  · rcases h with rfl | rfl | rfl | rfl | rfl | rfl | rfl | rfl | rfl | rfl | rfl | rfl | rfl | rfl
    all_goals exact ⟨_, .inl fun _ => rfl, moves_readNumber _ _⟩
  · rcases h with rfl | rfl | rfl | rfl | rfl | rfl | rfl
    · exact ⟨doRead7Bit, .inl fun _ => rfl, (moves_varintLoop 5 0 0).bind fun _ => Moves.pure _⟩
    · exact ⟨doReadString, .inl fun _ => rfl, (moves_varintLoop 5 0 0).bind fun n => moves_readNumber n .bytes⟩
    · exact ⟨doReadLzxInt16, .inl fun _ => rfl, doReadLzxInt16_eq ▸ moves_readNumber _ _⟩
    · exact ⟨doReadBits a, .inl fun _ => rfl,
        Keeps.ite (fun _ => Moves.raise _) fun _ => (moves_readBits _).bind fun _ => Moves.pure _⟩
    · exact ⟨doPeekBits a, .inl fun _ => rfl,
        Keeps.ite (fun _ => Moves.raise _) fun _ => (moves_peekBits _).bind fun _ => Moves.pure _⟩
    · exact ⟨doSetBitPos a, .inl fun _ => rfl, (moves_setBitPos _).bind fun _ => Moves.pure _⟩
    · exact ⟨doAlign, .inl fun _ => rfl, moves_alignCursor.bind fun _ => Moves.pure _⟩
  · rcases h with rfl | rfl | rfl | rfl | rfl | rfl | rfl
    · exact absurd hop (by decide)
    · exact ⟨doHufDecode, .inl fun _ => rfl, moves_doHufDecode⟩
    all_goals exact absurd hop (by decide)

/-- Settles O18: the procedure moves the cursors, and what the command does besides is its answer, its refusal or the
entry of its fault. -/
theorem bufferCommandsWriteOnlyCursors : Obligations.BufferCommandsWriteOnlyCursors := by
  intro c s t hop h
  obtain ⟨p, hp, hmoves⟩ := exec_moves c.a c.b c.data hop
  rcases hp.next_cases h with rfl | ⟨r, u, hu, rfl⟩ | ⟨k, u, hu, rfl⟩
  · exact ⟨rfl, .inl ⟨rfl, rfl, rfl, rfl, rfl, rfl⟩⟩
  · obtain ⟨-, b, k, rfl⟩ := hmoves.ok trivial hu
    exact ⟨rfl, .inl ⟨rfl, rfl, rfl, rfl, rfl, rfl⟩⟩
  · obtain ⟨-, b, k', rfl⟩ := hmoves.error trivial hu
    exact ⟨rfl, .inr ⟨k, rfl⟩⟩

end Sys2Proof.Machine

/-!
PROOFS of 42_huffman.md. First what the sections share: what a build makes, and how a decode through it can end. Then
HUF_BUILD (O35), HUF_DECODE (O37, O38, O39), symbols of length 0 (O40), and the trees that the stream defines (O44).
-/

namespace Sys2Proof.Machine

open Sys2Proof.Safety

/-! ## What a build makes -/

section
variable {accept : Bool} {tb : Nat} {lens : List Nat} {t : List Leaf}

theorem buildOutcome_of_ok (htb : 1 ≤ tb ∧ tb ≤ 16) (h : buildTable accept tb lens = .ok t) :
    buildOutcome accept tb lens = none := by
  rw [buildOutcome_eq accept htb, h]

theorem buildOutcome_of_error {c : Cause} (htb : 1 ≤ tb ∧ tb ≤ 16) (h : buildTable accept tb lens = .error c) :
    buildOutcome accept tb lens = some c := by
  rw [buildOutcome_eq accept htb, h]

/-- Every build places the codes of the lengths up to some limit. -/
theorem exists_unitLeaves_of_buildTable (htb : 1 ≤ tb ∧ tb ≤ 16) (h : buildTable accept tb lens = .ok t) :
    ∃ m ≤ 16, t = unitLeaves lens m := by
  rcases leaves_of_buildTable htb h with ⟨ht, -⟩ | ⟨ht, -⟩ | ⟨ht, -⟩
  · exact ⟨tb, htb.2, ht⟩
  · exact ⟨16, Nat.le_refl 16, ht⟩
  · exact ⟨16, Nat.le_refl 16, ht⟩

theorem prefixCode_of_buildTable (htb : 1 ≤ tb ∧ tb ≤ 16) (h : buildTable accept tb lens = .ok t) : PrefixCode t := by
  obtain ⟨m, hm, rfl⟩ := exists_unitLeaves_of_buildTable htb h
  exact prefixCode_unitLeaves hm

/-- A code in a table has the length of its symbol. -/
theorem len_of_buildTable (htb : 1 ≤ tb ∧ tb ≤ 16) (h : buildTable accept tb lens = .ok t) {x : Leaf} (hx : x ∈ t) :
    lens.getD x.sym 0 = x.len := by
  obtain ⟨m, -, rfl⟩ := exists_unitLeaves_of_buildTable htb h
  obtain ⟨a, -, -, rfl⟩ := mem_unitLeaves.1 hx
  rfl

/-- Lengths that are all 0 have no code. -/
theorem buildTable_zeros (htb : 1 ≤ tb ∧ tb ≤ 16) (h : buildTable accept tb lens = .ok t) (h0 : ∀ l ∈ lens, l = 0) :
    t = [] := by
  refine List.eq_nil_iff_forall_not_mem.2 fun x hx => ?_
  have hne := sym_of_buildTable htb h hx
  have hlt := lt_length_of_getD_ne hne
  rw [List.getD_eq_getElem _ _ hlt] at hne
  exact hne (h0 _ (List.getElem_mem hlt))

/-- Lengths that are not all 0 are built into a complete code only (42_huffman.md R127). -/
theorem completeCode_of_buildTable (htb : 1 ≤ tb ∧ tb ≤ 16) (h : buildTable accept tb lens = .ok t)
    (hne : ∃ l ∈ lens, l ≠ 0) : CompleteCode t := by
  rcases leaves_of_buildTable htb h with ⟨rfl, hk⟩ | ⟨rfl, -, hk⟩ | ⟨-, -, hzeros⟩
  · exact completeCode_unitLeaves htb.2 hk
  · exact completeCode_unitLeaves (Nat.le_refl 16) hk
  · obtain ⟨l, hl, hl0⟩ := hne
    exact absurd (hzeros l hl) hl0

theorem getD_le_of_codeLengths (hlens : codeLengths lens) (a : Nat) : lens.getD a 0 ≤ 16 := by
  by_cases h : lens.getD a 0 = 0
  · omega
  · have hlt := lt_length_of_getD_ne h
    rw [List.getD_eq_getElem _ _ hlt]
    exact hlens _ (List.getElem_mem hlt)

/-- The table of a complete code holds the canonical code of every symbol that has a length. -/
theorem canonicalCode_mem_of_buildTable (htb : 1 ≤ tb ∧ tb ≤ 16) (h : buildTable accept tb lens = .ok t)
    (hlens : codeLengths lens) (hk : kraft 16 lens = 65536) {a : Nat} (ha : lens.getD a 0 ≠ 0) :
    ⟨a, lens.getD a 0, canonicalCode lens a⟩ ∈ t := by
  have hmem {m : Nat} (hle : lens.getD a 0 ≤ m) : ⟨a, lens.getD a 0, canonicalCode lens a⟩ ∈ unitLeaves lens m :=
    mem_unitLeaves.2 ⟨a, Nat.pos_of_ne_zero ha, hle, rfl⟩
  rcases leaves_of_buildTable htb h with ⟨rfl, htbk⟩ | ⟨rfl, -⟩ | ⟨rfl, -⟩
  · exact hmem (getD_le_of_kraft htbk hk.le hlens)
  · exact hmem (getD_le_of_codeLengths hlens a)
  · exact hmem (getD_le_of_codeLengths hlens a)

/-- The bits of a canonical code are the code, which fits its length. -/
theorem ofBits_bitsOf_canonicalCode (hlens : codeLengths lens) (hk : kraft 16 lens = 65536) {a : Nat}
    (ha : lens.getD a 0 ≠ 0) : ofBits (bitsOf (lens.getD a 0) (canonicalCode lens a)) = canonicalCode lens a := by
  obtain ⟨m, hm⟩ := Nat.exists_eq_succ_of_ne_zero ha
  have h16 := getD_le_of_codeLengths hlens a
  rw [ofBits_bitsOf, hm, Nat.mod_eq_of_lt (canonicalCode_lt hm (by omega) hk.le)]

end

/-! ## How a decode ends -/

section
variable {t : List Leaf} {lenOf : Nat → Nat} {tb : Nat} {s : State}

theorem decodeSym_of_missing (h : ¬framesPresent s tb) : decodeSym t lenOf tb s = .error (.raise .readPastEnd) s :=
  Proc.bind_of_error (peekBits_of_missing h)

/-- Bits that begin a code longer than `tb` are not decoded without 32 bits in STORE, however few bits that code has
(42_huffman.md R132, 70_reset_and_hazards.md R195). -/
theorem decodeSym_of_longer (ht : PrefixCode t) {x : Leaf} (hx : x ∈ t) (hlen : tb < x.len)
    (hbits : x.code / 2 ^ (x.len - tb) = ofBits (streamBits s tb)) (h32 : ¬framesPresent s 32) :
    decodeSym t lenOf tb s = .error (.raise .readPastEnd) s := by
  by_cases h : framesPresent s tb
  · unfold decodeSym
    rw [Proc.bind_of_ok (peekBits_of_present h), entryAt_node ht hx hlen hbits]
    exact Proc.bind_of_error (peekBits_of_missing h32)
  · exact decodeSym_of_missing h

/-- A table without codes has no filled entry. -/
theorem decodeSym_nil (h : framesPresent s tb) : decodeSym [] lenOf tb s = .error (.raise .decodeUnfilled) s :=
  Proc.bind_of_ok (peekBits_of_present h)

/-- Some code of a complete table stands at the cursors. -/
theorem exists_code_ahead (ht : PrefixCode t) (hc : CompleteCode t) (s : State) :
    ∃ x ∈ t, ofBits (streamBits s x.len) = x.code := by
  have hlt : ofBits (streamBits s 16) < 65536 := by simpa [streamBits] using ofBits_lt (streamBits s 16)
  obtain ⟨x, hx, hw⟩ := hc _ hlt
  exact ⟨x, hx, by rw [← hw, streamBits_prefix s (ht.len x hx).2]⟩

/-- A table built from lengths that are not all 0 decodes whatever stands at the cursors and passes it, or 32 bits are
not in STORE (42_huffman.md R133, R134). -/
theorem decodeSym_built_cases {accept : Bool} {lens : List Nat} (htb : 1 ≤ tb ∧ tb ≤ 16)
    (hb : buildTable accept tb lens = .ok t) (hne : ∃ l ∈ lens, l ≠ 0) (s : State) :
    (∃ sym, lens.getD sym 0 ≠ 0 ∧
      decodeSym t (fun sym => lens.getD sym 0) tb s = .ok sym (advanced s (lens.getD sym 0))) ∨
    (¬framesPresent s 32 ∧ decodeSym t (fun sym => lens.getD sym 0) tb s = .error (.raise .readPastEnd) s) := by
  have ht := prefixCode_of_buildTable htb hb
  obtain ⟨x, hx, hbits⟩ := exists_code_ahead ht (completeCode_of_buildTable htb hb hne) s
  have hlen16 := (ht.len x hx).2
  by_cases h : framesPresent s (if x.len ≤ tb then tb else 32)
  · refine .inl ⟨x.sym, sym_of_buildTable htb hb hx, ?_⟩
    rw [decodeSym_of_code ht hx _ htb.2 hbits h, len_of_buildTable htb hb hx]
    exact passSymbol_of_present (framesPresent_mono h (by split <;> omega))
  · have h32 : ¬framesPresent s 32 := fun h' => h (framesPresent_mono h' (by split <;> omega))
    refine .inr ⟨h32, ?_⟩
    by_cases hlen : x.len ≤ tb
    · exact decodeSym_of_missing (by rwa [if_pos hlen] at h)
    · exact decodeSym_of_longer ht hx (Nat.not_le.1 hlen) (by rw [← hbits, streamBits_prefix s (by omega)]) h32

end

theorem ofBits_take (l : List Bool) (k : Nat) : ofBits (l.take k) = ofBits l / 2 ^ (l.length - k) := by
  have hlt := ofBits_lt (l.drop k)
  have hsplit := ofBits_append (l.take k) (l.drop k)
  rw [List.length_drop] at hlt hsplit
  rw [List.take_append_drop] at hsplit
  rw [hsplit, Nat.mul_comm, Nat.mul_add_div (Nat.two_pow_pos _), Nat.div_eq_of_lt hlt, Nat.add_zero]

/-! ## HUF_BUILD -/

section
variable {s t : State} {n tb : U32} {data : List Byte}

theorem toNat_hostN_withHost (s : State) (tb : U32) (data : List Byte) (hn : n.toNat ≤ 1024) :
    (s.withHost n tb data).hostN.toNat = n.toNat :=
  (BitVec.toNat_ofNat _ _).trans (Nat.mod_eq_of_lt (by omega))

theorem toNat_hostTb_withHost (s : State) (n : U32) (data : List Byte) (htb : tb.toNat ≤ 16) :
    (s.withHost n tb data).hostTb.toNat = tb.toNat :=
  (BitVec.toNat_ofNat _ _).trans (Nat.mod_eq_of_lt (by omega))

/-- HOST_LEN after HUF_BUILD: the lengths of DATA, and what was there before beyond them. -/
theorem toNat_hostLen_withHost (s : State) (n tb : U32) (hdata : ∀ l ∈ data, l.toNat ≤ 16) (i : Fin 1024) :
    (s.withHost n tb data).hostLen[i].toNat =
      if h : i.val < data.length then data[i.val].toNat else s.hostLen[i].toNat := by
  change ((writeLengths s.hostLen 0 (data.map (·.toNat)))[i.val]).toNat = _
  rw [writeLengths_getElem, List.length_map, Nat.zero_add, Nat.sub_zero]
  by_cases h : i.val < data.length
  · have hle := hdata _ (List.getElem_mem h)
    rw [if_pos ⟨Nat.zero_le _, h⟩, dif_pos h, List.getD_eq_getElem _ _ (by simpa using h), List.getElem_map,
      BitVec.toNat_ofNat, Nat.mod_eq_of_lt (by omega)]
  · rw [if_neg fun hi => h hi.2, dif_neg h]
    rfl

/-- All that HUF_BUILD can do in IDLE (42_huffman.md R127, R135). -/
theorem exec_hufBuild_cases (n tb : U32) (data : List Byte) (hs : s.faulted = false) :
    (hufOperandsOk n.toNat tb.toNat data = false ∧
      exec (.hufBuild n tb data) s = .next (faulting 0x40 .badOperand s)) ∨
    (hufOperandsOk n.toNat tb.toNat data = true ∧
      ((∃ k, buildTable s.params.emptyTreeAccept tb.toNat (data.map (·.toNat)) = .error k ∧
          exec (.hufBuild n tb data) s = .next (faulting 0x40 k (s.withHost n tb data))) ∨
        ∃ ls, buildTable s.params.emptyTreeAccept tb.toNat (data.map (·.toNat)) = .ok ls ∧
          exec (.hufBuild n tb data) s
            = .next (succeeded .empty { s.withHost n tb data with hostTable := ⟨true, ls⟩ }))) := by
  rcases doHufBuild_cases n tb data (s.begin 0x40) with ⟨hok, h⟩ | ⟨hok, ⟨k, hb, h⟩ | ⟨ls, hb, h⟩⟩
  · exact .inl ⟨hok, command_faulting hs h⟩
  · rw [hostLengths_withHost _ hok] at hb
    exact .inr ⟨hok, .inl ⟨k, hb, command_faulting (t := s.withHost n tb data) hs h⟩⟩
  · rw [hostLengths_withHost _ hok] at hb
    exact .inr ⟨hok, .inr ⟨ls, hb,
      command_succeeded (t := { s.withHost n tb data with hostTable := ⟨true, ls⟩ }) hs h⟩⟩

/-- What an `ok` of HUF_BUILD tells: its operands were in range, and the table was built from its lengths. -/
theorem hufBuild_of_ok (hs : s.faulted = false) (h : exec (.hufBuild n tb data) s = .next t)
    (hr : t.response = some (.ok .empty)) :
    hufOperandsOk n.toNat tb.toNat data = true ∧
      ∃ ls, buildTable s.params.emptyTreeAccept tb.toNat (data.map (·.toNat)) = .ok ls ∧
        t = succeeded .empty { s.withHost n tb data with hostTable := ⟨true, ls⟩ } := by
  rcases exec_hufBuild_cases n tb data hs with ⟨-, hx⟩ | ⟨hok, ⟨k, -, hx⟩ | ⟨ls, hb, hx⟩⟩
  all_goals
    rw [hx, Host.Outcome.next.injEq] at h
    subst h
  · cases hr
  · cases hr
  · exact ⟨hok, ls, hb, rfl⟩

end

/-- Settles O35: the build runs on the lengths that HUF_BUILD has kept, and they are those of its DATA. -/
theorem hufBuildOutcome : Obligations.HufBuildOutcome := by
  intro s n tb data hs
  rcases exec_hufBuild_cases n tb data hs with ⟨hok, h⟩ | ⟨hok, hbuilt⟩
  · rw [if_neg fun hr => by simp [(hufOperandsOk_iff _ _ _).2 hr] at hok]
    exact h
  · have hr := (hufOperandsOk_iff _ _ _).1 hok
    rw [if_pos hr]
    obtain ⟨hn, htb, -, hdata⟩ := hr
    have hN := toNat_hostN_withHost s tb data hn.2
    have hTb := toNat_hostTb_withHost s n data htb.2
    have hLen := toNat_hostLen_withHost s n tb hdata
    rcases hbuilt with ⟨k, hb, h⟩ | ⟨ls, hb, h⟩
    · refine ⟨s.withHost n tb data, rfl, hN, hTb, hLen, ?_⟩
      rw [buildOutcome_of_error htb hb]
      exact ⟨rfl, h⟩
    · refine ⟨{ s.withHost n tb data with hostTable := ⟨true, ls⟩ }, rfl, hN, hTb, hLen, ?_⟩
      rw [buildOutcome_of_ok htb hb]
      exact ⟨⟨rfl, hb⟩, h⟩

/-! ## HUF_DECODE -/

/-- The decode that HUF_DECODE runs through a table that is VALID (42_huffman.md R136). -/
def hostDecode (s : State) : Proc Nat :=
  decodeSym s.hostTable.leaves (fun sym => s.hostLengths.getD sym 0) s.hostTb.toNat

section
variable {s t : State}

theorem doHufDecode_of_not_valid (h : s.hostTable.valid = false) :
    doHufDecode s = .error (.raise .tableNotBuilt) s := by
  unfold doHufDecode
  rw [Proc.bind_get, if_neg (by simp [h])]
  rfl

theorem exec_hufDecode_of_ok {sym : Nat} (hs : s.faulted = false) (hvalid : s.hostTable.valid = true)
    (h : hostDecode s (s.begin 0x41) = .ok sym (t.begin 0x41)) :
    exec .hufDecode s = .next (succeeded (.nat sym) t) :=
  command_succeeded hs ((doHufDecode_of_valid (s := s.begin 0x41) hvalid).trans (Proc.bind_of_ok h))

theorem exec_hufDecode_of_raise {c : Cause} (hs : s.faulted = false) (hvalid : s.hostTable.valid = true)
    (h : hostDecode s (s.begin 0x41) = .error (.raise c) (s.begin 0x41)) :
    exec .hufDecode s = .next (faulting 0x41 c s) :=
  command_faulting hs ((doHufDecode_of_valid (s := s.begin 0x41) hvalid).trans (Proc.bind_of_error h))

theorem exec_hufDecode_of_not_valid (hs : s.faulted = false) (hvalid : s.hostTable.valid = false) :
    exec .hufDecode s = .next (faulting 0x41 .tableNotBuilt s) :=
  command_faulting hs (doHufDecode_of_not_valid (s := s.begin 0x41) hvalid)

end

/-- Settles O37: the symbol's canonical code is in the table, and a code that stands at the cursors is decoded. -/
theorem hufDecodeFindsTheCode : Obligations.HufDecodeFindsTheCode := by
  intro s sym hs htb1 htb16 ⟨hvalid, hbuild⟩ hlens hk len hlen hbits hframes
  have htb := And.intro htb1 htb16
  have hmem := canonicalCode_mem_of_buildTable htb hbuild hlens hk hlen
  have hcode : ofBits (streamBits (s.begin 0x41) len) = canonicalCode s.hostLengths sym :=
    (congrArg ofBits hbits).trans (ofBits_bitsOf_canonicalCode hlens hk hlen)
  have hpassed : framesPresent s len :=
    framesPresent_mono hframes (by have := getD_le_of_codeLengths hlens sym; split <;> omega)
  refine exec_hufDecode_of_ok (t := advanced s len) hs hvalid ?_
  rw [hostDecode, decodeSym_of_code (prefixCode_of_buildTable htb hbuild) hmem _ htb16 hcode hframes]
  exact passSymbol_of_present (s := s.begin 0x41) hpassed

/-- Settles O38: lengths that are not all 0 are built into a complete code, and a code of it stands at the cursors. -/
theorem hufDecodeIsTotal : Obligations.HufDecodeIsTotal := by
  intro s t u n tb data hs hexec hr ⟨l, hl, hl0⟩ hu hN hTb hLen hTable
  obtain ⟨hok, ls, hb, rfl⟩ := hufBuild_of_ok hs hexec hr
  obtain ⟨-, htb, hdata, -⟩ := (hufOperandsOk_iff _ _ _).1 hok
  have hlens : u.hostLengths = data.map (·.toNat) := by
    rw [← hostLengths_withHost s hok, State.hostLengths, hLen, hN]
    rfl
  have hdecode : hostDecode u = decodeSym ls (fun sym => (data.map (·.toNat)).getD sym 0) tb.toNat := by
    rw [hostDecode, hlens, hTb, hTable]
    exact congrArg _ (toNat_hostTb_withHost s n data htb.2)
  have hvalid : u.hostTable.valid = true := by rw [hTable]; rfl
  have hne : ∃ m ∈ data.map (·.toNat), m ≠ 0 :=
    ⟨l.toNat, List.mem_map_of_mem hl, fun h => hl0 (BitVec.eq_of_toNat_eq h)⟩
  rcases decodeSym_built_cases htb hb hne (u.begin 0x41) with ⟨sym, hsym, h⟩ | ⟨h32, h⟩
  · have hlt := lt_length_of_getD_ne hsym
    rw [List.length_map, hdata] at hlt
    exact .inl ⟨sym, hlt, hsym, exec_hufDecode_of_ok hu hvalid (hdecode ▸ h)⟩
  · exact .inr ⟨h32, exec_hufDecode_of_raise hu hvalid (hdecode ▸ h)⟩

/-- Settles O39: each fault is one of HUF_DECODE's own check, of its first peek, of the entry found there, or of its
second peek. -/
theorem hufDecodeFaults : Obligations.HufDecodeFaults := by
  intro s hs
  refine ⟨exec_hufDecode_of_not_valid hs, fun hvalid htb => ?missing, fun hvalid htb hzeros hbuilt h1 h16 => ?empty,
    fun sym h1 h16 hbuilt hlens hk => ?longer⟩
  case missing => exact exec_hufDecode_of_raise hs hvalid (decodeSym_of_missing (s := s.begin 0x41) htb)
  case empty =>
    refine exec_hufDecode_of_raise hs hvalid ?_
    rw [hostDecode, buildTable_zeros ⟨h1, h16⟩ hbuilt.2 hzeros]
    exact decodeSym_nil (s := s.begin 0x41) htb
  case longer =>
    intro len hlen htb h32 hbits
    have hne : s.hostLengths.getD sym 0 ≠ 0 := Nat.ne_of_gt (Nat.zero_lt_of_lt hlen)
    have hmem := canonicalCode_mem_of_buildTable ⟨h1, h16⟩ hbuilt.2 hlens hk hne
    have hcode : canonicalCode s.hostLengths sym / 2 ^ (len - s.hostTb.toNat)
        = ofBits (streamBits s s.hostTb.toNat) := by
      rw [hbits, ofBits_take, bitsOf_length, ofBits_bitsOf_canonicalCode hlens hk hne]
    exact exec_hufDecode_of_raise hs hbuilt.1
      (decodeSym_of_longer (s := s.begin 0x41) (prefixCode_of_buildTable ⟨h1, h16⟩ hbuilt.2) hmem hlen hcode h32)

/-! ## Symbols of length 0 -/

section
variable (lens : List Nat) (k : Nat)

theorem placeSymbols_zeros {len : Nat} (hlen : 1 ≤ len) (mask bm sym pos : Nat) (t : List Leaf) :
    placeSymbols mask len bm (List.replicate k 0) sym pos t = .ok (pos, t) := by
  induction k generalizing sym with
  | zero => rfl
  | succ k ih => rw [List.replicate_succ, placeSymbols, if_neg (by omega), ih]

theorem placeSymbols_append_zeros {len : Nat} (hlen : 1 ≤ len) (mask bm sym pos : Nat) (t : List Leaf) :
    placeSymbols mask len bm (lens ++ List.replicate k 0) sym pos t = placeSymbols mask len bm lens sym pos t := by
  induction lens generalizing sym pos t with
  | nil => exact placeSymbols_zeros k hlen mask bm sym pos t
  | cons l ls ih => simp only [List.cons_append, placeSymbols, ih]

theorem placeLengths_append_zeros (mask count : Nat) {len : Nat} (hlen : 1 ≤ len) (bm pos : Nat) (t : List Leaf) :
    placeLengths (lens ++ List.replicate k 0) mask count len bm pos t = placeLengths lens mask count len bm pos t := by
  induction count generalizing len bm pos t with
  | zero => rfl
  | succ count ih =>
    have hnext := fun bm pos t => ih (len := len + 1) (Nat.le_add_left 1 len) bm pos t
    simp only [placeLengths, placeSymbols_append_zeros lens k hlen, hnext]

theorem buildTable_append_zeros (accept : Bool) (tb : Nat) :
    buildTable accept tb (lens ++ List.replicate k 0) = buildTable accept tb lens := by
  have hzeros : (lens ++ List.replicate k 0).all (· == 0) = lens.all (· == 0) := by simp
  simp only [buildTable, placeLengths_append_zeros lens k _ _ (Nat.le_add_left 1 _), hzeros]

theorem getD_append_zeros (a : Nat) : (lens ++ List.replicate k 0).getD a 0 = lens.getD a 0 := by
  rcases Nat.lt_or_ge a lens.length with h | h
  · exact List.getD_append _ _ _ _ h
  · rw [List.getD_append_right _ _ _ _ h, List.getD_eq_default lens _ h]
    rcases Nat.lt_or_ge (a - lens.length) k with h' | h'
    · exact List.getD_replicate _ h'
    · exact List.getD_eq_default _ _ (by simpa using h')

end

/-- Settles O40: the build looks for the lengths from 1 on, and a symbol that is not there counts as length 0. -/
theorem zeroLengthsDoNotMatter : Obligations.ZeroLengthsDoNotMatter := by
  intro accept tb lens k padded
  refine ⟨buildTable_append_zeros lens k accept tb, fun leaves s _ => ?_⟩
  have hlenOf : (fun sym => padded.getD sym 0) = fun sym => lens.getD sym 0 := funext (getD_append_zeros lens k)
  rw [hlenOf]

/-! ## The trees that the stream defines -/

/-- A tree definition keeps its lengths and then builds its table from them (42_huffman.md R127, R137). -/
theorem element_buildTree {s : State} {f : State → State} {lens : List Nat} (x : Tree) (hs : s.faulted = false)
    (hparams : (f s).params = s.params) (htmp : (f s).tmp = s.tmp) (hlens : (f s).treeLengths x = lens) :
    ∃ tab : Table, match buildOutcome s.params.emptyTreeAccept (treeBits x) lens with
      | none => builtFor tab s.params.emptyTreeAccept (treeBits x) lens ∧
          element (update f >>= fun _ => buildTree x) s = .next ((f s).setTable x tab)
      | some k => tab.valid = false ∧
          element (update f >>= fun _ => buildTree x) s
            = .next (faulting s.tmp.opcode k ((f s).setTable x tab)) := by
  rw [← hparams, ← hlens]
  rcases buildTree_cases x (f s) with ⟨ls, hb, h⟩ | ⟨k, hb, h⟩
  · refine ⟨⟨true, ls⟩, ?_⟩
    rw [buildOutcome_of_ok (treeBits_range x) hb]
    exact ⟨⟨rfl, hb⟩, element_of_ok hs h⟩
  · refine ⟨⟨false, []⟩, ?_⟩
    rw [buildOutcome_of_error (treeBits_range x) hb]
    refine ⟨rfl, (element_of_raise (p := update f >>= fun _ => buildTree x) hs h).trans ?_⟩
    rw [faultEntry_eq_faulting, State.setTable_tmp, htmp]

/-- The lengths of ALIGNED_LENGTHS are those of the aligned tree. -/
theorem treeLengths_aligned (s : State) (a : Vector (BitVec 3) 8) :
    State.treeLengths { s with alignedLen := a.map some } .aligned = a.toList.map (·.toNat) := by
  simp only [State.treeLengths, Vector.toList_map, List.map_map]
  rfl

/-- The lengths of PRETREE are those of the pretree. -/
theorem treeLengths_pretree (s : State) (p : Vector (BitVec 4) 20) :
    State.treeLengths { s with pretreeLen := p.map some } .pretree = p.toList.map (·.toNat) := by
  simp only [State.treeLengths, Vector.toList_map, List.map_map]
  rfl

/-- Settles O44: both elements keep their lengths and build their tree. -/
theorem treeDefinitions : Obligations.TreeDefinitions := fun s hs =>
  ⟨fun a => element_buildTree .aligned hs rfl rfl (treeLengths_aligned s a),
    fun p => element_buildTree .pretree hs rfl rfl (treeLengths_pretree s p)⟩

end Sys2Proof.Machine

/-!
PROOFS of 43_lzx_blocks.md. LZX_RESET and the elements that headers and trees are made of (O41, O42, O45); then what
each place of the stream can hold and what the engine runs there, from which a block header is read (O59); what the
commands of the engine leave unchanged (O19); and LZX_DECOMPRESS in an open session: the faults before anything is
decoded (O55), a frame in one run (O52, O60), a frame of literals (O53).
-/

namespace Sys2Proof.Machine

open Sys2Proof.Safety

/-! ## O41: LZX_RESET -/

/-- Settles O41. -/
theorem engineResetStartsASession : Obligations.EngineResetStartsASession := by
  intro s hs
  have hrun : doLzxReset (s.begin 0x50) = .ok .empty ((engineReset s).begin 0x50) := rfl
  refine ⟨engineReset s, command_succeeded hs hrun, rfl, fun _ => rfl, fun i => ?_, fun i => ?_, fun i => ?_,
    fun i => ?_, rfl, rfl, rfl, rfl⟩
  all_goals exact Vector.getElem_replicate i.isLt

/-! ## O42: the header elements -/

section
variable {s : State}

/-- An element that only writes registers. -/
theorem element_update (hs : s.faulted = false) (f : State → State) : element (update f) s = .next (f s) :=
  element_of_ok hs (update_run f s)

theorem element_blockHeader (hs : s.faulted = false) (type : BitVec 3) (size : BitVec 24) :
    element (blockHeader type size) s = .next { s with blockType := type, blockRemaining := size } :=
  element_update hs _

/-- A header of an invalid type is latched before it faults (43_lzx_blocks.md R141). -/
theorem element_invalidBlock (hs : s.faulted = false) (type : BitVec 3) (size : BitVec 24) :
    element (blockHeader type size >>= fun _ => raise .invalidBlockType) s =
      .next (faulting s.tmp.opcode .invalidBlockType { s with blockType := type, blockRemaining := size }) :=
  element_of_raise (t := { s with blockType := type, blockRemaining := size }) hs rfl

/-- A chunk header gives the sizes and is counted (45_framer.md R166). -/
theorem element_chunkHeader (hs : s.faulted = false) (fs bs bytes : Nat) :
    element (chunkHeader fs bs bytes) s = .next { s with
      frmConsumed := s.frmConsumed + BitVec.ofNat 33 bytes, tmp := { s.tmp with fs := fs, bs := bs } } := by
  refine (element_update hs _).trans ?_
  rw [BitVec.ofNat_add, BitVec.ofNat_toNat, BitVec.setWidth_eq]

end

/-- Settles O42, element by element. -/
theorem headerElements : Obligations.HeaderElements := fun _ hs =>
  ⟨fun _ _ => element_chunkHeader hs _ _ 5, fun _ => element_chunkHeader hs _ _ 2,
    element_of_ok (p := doTransform 0) hs rfl, element_of_raise (p := doTransform 1) hs rfl,
    fun size => ⟨element_blockHeader hs 1 size, element_blockHeader hs 2 size, element_blockHeader hs 3 size,
      element_invalidBlock hs 0 size, fun _ => element_invalidBlock hs _ size⟩,
    fun r0 r1 r2 => element_of_ok (p := doUncompReps r0 r1 r2) hs rfl⟩

/-! ## O45: the pretree items -/

section
variable {s : State} {count v : Nat}

/-- A run of equal lengths, with its index moved, is what `RunWritten` says. -/
theorem runWritten_fillLengths (s : State) (count v : Nat) :
    RunWritten s ((s.fillLengths s.tmp.array s.tmp.idx count v).withTmp fun t => { t with idx := t.idx + count })
      count v := by
  cases harray : s.tmp.array with
  | main =>
    refine ⟨fun i => ?_, fun i => ?_, rfl⟩
    · simpa [harray, State.fillLengths] using fillVector_getElem s.mainLen s.tmp.idx v count i i.isLt
    · simp [harray, State.fillLengths, State.withTmp]
  | length =>
    refine ⟨fun i => ?_, fun i => ?_, rfl⟩
    · simp [harray, State.fillLengths, State.withTmp]
    · simpa [harray, State.fillLengths] using fillVector_getElem s.lengthLen s.tmp.idx v count i i.isLt

/-- A run within its range is written. -/
theorem element_writeRun_of_le (hs : s.faulted = false) (hdue : s.itemDue) (value : State → Nat)
    (hrun : count ≤ s.tmp.last - s.tmp.idx) :
    ∃ t, element (writeRun count value) s = .next t ∧ RunWritten s t count (value s) := by
  obtain ⟨hlt, hle⟩ := hdue
  rcases writeRun_cases count value s with ⟨hnot, -⟩ | ⟨-, hpast, -⟩ | ⟨-, -, h⟩
  · exact absurd ⟨hlt, hle⟩ hnot
  · omega
  · exact ⟨_, element_of_ok hs h, runWritten_fillLengths s count (value s)⟩

/-- A run past its range faults before anything is written (43_lzx_blocks.md R147). -/
theorem element_writeRun_of_lt (hs : s.faulted = false) (hdue : s.itemDue) (value : State → Nat)
    (hrun : s.tmp.last - s.tmp.idx < count) :
    element (writeRun count value) s = .next (faulting s.tmp.opcode .pretreeRunOvershoot s) := by
  obtain ⟨hlt, hle⟩ := hdue
  rcases writeRun_cases count value s with ⟨hnot, -⟩ | ⟨-, -, h⟩ | ⟨-, hwithin, -⟩
  · exact absurd ⟨hlt, hle⟩ hnot
  · exact element_of_raise hs h
  · omega

/-- A run of zeros, within its range or past it. -/
theorem element_writeRun_zeros (hs : s.faulted = false) (hdue : s.itemDue) (count : Nat) :
    if count ≤ s.tmp.last - s.tmp.idx then
      ∃ t, element (writeRun count fun _ => 0) s = .next t ∧ RunWritten s t count 0
    else element (writeRun count fun _ => 0) s = .next (faulting s.tmp.opcode .pretreeRunOvershoot s) := by
  split_ifs with hrun
  · exact element_writeRun_of_le hs hdue (fun _ => 0) hrun
  · exact element_writeRun_of_lt hs hdue (fun _ => 0) (Nat.not_le.1 hrun)

/-- The range of PT.SAME is checked before its second symbol (43_lzx_blocks.md R147). -/
theorem doPtSame_of_lt {z : BitVec 1} (s2 : BitVec 5) (hrun : s.tmp.last < s.tmp.idx + (z.toNat + 4)) :
    doPtSame z s2 s = .error (.raise .pretreeRunOvershoot) s :=
  Proc.bind_of_error (checkRun_of_lt hrun)

/-- PT.SAME within its range: a second symbol that is no delta faults, any other one gives the value of the run. -/
theorem doPtSame_of_le {z : BitVec 1} (s2 : BitVec 5) (hrun : s.tmp.idx + (z.toNat + 4) ≤ s.tmp.last) :
    doPtSame z s2 s = if 16 < s2.toNat then .error (.raise .pretreeBadSameSymbol) s
      else writeRun (z.toNat + 4) (fun s => s.deltaValue s2.toNat) s := by
  rw [doPtSame, Proc.bind_of_ok (checkRun_of_le hrun)]
  split_ifs <;> rfl

end

/-- Settles O45: each item is one run of equal lengths. (`pretreeItems` is the model's loop.) -/
theorem pretreeItems_holds : Obligations.PretreeItems := by
  intro s hs hlt hle
  have hdue : s.itemDue := ⟨hlt, hle⟩
  refine ⟨fun d _ => element_writeRun_of_le hs hdue (fun s => s.deltaValue d.toNat) (by omega),
    fun z => element_writeRun_zeros hs hdue (z.toNat + 4), fun z => element_writeRun_zeros hs hdue (z.toNat + 20),
    fun z s2 => ?_⟩
  split_ifs with hpast hbad
  · exact element_of_raise hs (doPtSame_of_lt s2 (by omega))
  · have hrun := doPtSame_of_le (s := s) (z := z) s2 (by omega)
    rw [if_pos hbad] at hrun
    exact element_of_raise hs hrun
  · have hrun := doPtSame_of_le (s := s) (z := z) s2 (by omega)
    rw [if_neg hbad] at hrun
    obtain ⟨t, ht, hw⟩ := element_writeRun_of_le hs hdue (fun s => s.deltaValue s2.toNat) (Nat.not_lt.1 hpast)
    exact ⟨t, (element_congr hs hs hrun).trans ht, hw⟩

end Sys2Proof.Machine

namespace Sys2Proof.Machine

open Sys2Proof.Safety

/-! ## What stands in each place of the stream -/

/-- Every instruction that the procedure returns meets `P`. -/
def Yields (P : Instr → Prop) (p : Proc Instr) : Prop := ∀ s i t, p s = .ok i t → P i

section
variable {P : Instr → Prop}

/-- What a sequence returns is returned by its last part. -/
theorem Yields.bind {α : Type} {p : Proc α} {f : α → Proc Instr} (hf : ∀ a, Yields P (f a)) : Yields P (p >>= f) := by
  intro s i t h
  obtain ⟨a, u, -, ha⟩ := Proc.bind_eq_ok.1 h
  exact hf a u i t ha

theorem yields_decoded {fmt : Format} {fields : List Field}
    (h : ∀ i, decode (.element fmt fields) = .ok i → P i) : Yields P (decoded fmt fields) := by
  intro s i t hi
  cases hd : decode (.element fmt fields) with
  | error e =>
    rw [decoded, hd] at hi
    cases hi
  | ok j =>
    rw [decoded, hd] at hi
    cases hi
    exact h _ hd

end

/-- What a place of the stream can hold (30_encoding.md R71 to R83). -/
def PlaceHolds : ElemKind → Instr → Prop
  | .chunkHeader, i => (∃ fs bs, i = .frmExplicit fs bs) ∨ ∃ bs, i = .frmImplicit bs
  | .transform, i => ∃ b, i = .transform b
  | .blockHeader, i => ∃ type size, i = blockInstr type size
  | .alignedLengths, i => ∃ a, i = .alignedLengths a
  | .pretree, i => ∃ p, i = .pretree p
  | .pretreeItem, i => ∃ sym vs, i = pretreeInstr sym vs
  | .mainItem, i => (∃ c, i = .lit c) ∨ ∃ len src, matchForm i = some (len, src)
  | .lengthFooter, i => ∃ f, i = .lenFoot f
  | .alignedSymbol, i => ∃ a, i = .alignSym a
  | .align, i => i = .streamAlign
  | .uncompReps, i => ∃ r0 r1 r2, i = .uncompReps r0 r1 r2
  | .uncompBytes, i => i = .uncompBytes

section
variable {slot : Nat} {lh : BitVec 3} {footer : Option (BitVec 8)} {i : Instr}

theorem matchForm_of_verbatimMatch {v : Nat} (h : verbatimMatch slot lh footer v = some i) :
    ∃ len src, matchForm i = some (len, src) := by
  unfold verbatimMatch at h
  split at h <;> cases h
  all_goals exact ⟨_, _, rfl⟩

theorem matchForm_of_alignedMatch {xs : List Nat} (h : alignedMatch slot lh footer xs = some i) :
    ∃ len src, matchForm i = some (len, src) := by
  unfold alignedMatch at h
  split at h <;> cases h
  all_goals exact ⟨_, _, rfl⟩

theorem matchForm_of_slotMatch {aligned : Bool} {xs : List Nat} (h : slotMatch aligned slot lh footer xs = some i) :
    ∃ len src, matchForm i = some (len, src) := by
  unfold slotMatch at h
  split at h
  case h_5 =>
    split at h
    · exact matchForm_of_alignedMatch h
    · exact matchForm_of_verbatimMatch h
  all_goals
    cases h
    exact ⟨_, _, rfl⟩

/-- A main-tree element is a literal or a match (44_lzx_decode.md R150). -/
theorem mainInstr_cases {aligned : Bool} {m : Nat} {vs : List Nat} (h : mainInstr aligned m vs = some i) :
    (∃ c, i = .lit c) ∨ ∃ len src, matchForm i = some (len, src) := by
  unfold mainInstr at h
  split_ifs at h
  · cases h
    exact .inl ⟨_, rfl⟩
  · exact .inr (matchForm_of_slotMatch h)
  · exact .inr (matchForm_of_slotMatch h)

/-- A match is at least 2 bytes long (30_encoding.md R79). -/
theorem two_le_lengthOf (lh : BitVec 3) (f : Option (BitVec 8)) : 2 ≤ lengthOf lh f := by
  unfold lengthOf
  split <;> omega

/-- A match takes its length and offset as `matchForm` says, and ends as every match does (44_lzx_decode.md R150). -/
theorem runElement_of_matchForm {len : Nat} {src : OffsetSource} (h : matchForm i = some (len, src)) (s : State) :
    2 ≤ len ∧ runElement i s = finishMatch (cacheAfter s len src) := by
  cases i with
  | matchS0 =>
    cases h
    exact ⟨two_le_lengthOf _ _, doMatchS0_run _ _ s⟩
  | matchS1 =>
    cases h
    exact ⟨two_le_lengthOf _ _, doMatchS1_run _ _ s⟩
  | matchS2 =>
    cases h
    exact ⟨two_le_lengthOf _ _, doMatchS2_run _ _ s⟩
  | matchAS8 _ _ v _ | matchAS9 _ _ v _ =>
    cases v <;> cases h
    all_goals exact ⟨two_le_lengthOf _ _, alignedTreeMatch_run _ _ _ _ _ s⟩
  | matchS3 | matchVS4 | matchVS5 | matchVS6 | matchVS7 | matchVS8 | matchVS9 | matchVS10 | matchVS11 | matchVS12
  | matchVS13 | matchVS14 | matchVS15 | matchVS16 | matchVS17 | matchVS18 | matchVS19 | matchVS20 | matchVS21
  | matchVS22 | matchVS23 | matchVS24 | matchVS25 | matchVS26 | matchVS27 | matchVS28 | matchVS29 | matchVS30
  | matchVS31 | matchAS4 | matchAS5 | matchAS6 | matchAS7 =>
    cases h
    exact ⟨two_le_lengthOf _ _, rawMatch_run _ _ _ _ s⟩
  | matchAS10 | matchAS11 | matchAS12 | matchAS13 | matchAS14 | matchAS15 | matchAS16 | matchAS17 | matchAS18
  | matchAS19 | matchAS20 | matchAS21 | matchAS22 | matchAS23 | matchAS24 | matchAS25 | matchAS26 | matchAS27
  | matchAS28 | matchAS29 | matchAS30 | matchAS31 =>
    cases h
    exact ⟨two_le_lengthOf _ _, alignedTreeMatch_run _ _ _ _ _ s⟩
  | _ => cases h

end

theorem yields_fetchChunkHeader : Yields (PlaceHolds .chunkHeader) fetchChunkHeader := by
  have hdecoded (fields : List Field) : Yields (PlaceHolds .chunkHeader) (decoded .chunkHeader fields) :=
    yields_decoded fun i h => by
      rcases decode_chunkHeader_eq_ok.1 h with ⟨_, -, -, rfl⟩ | ⟨_, _, -, -, rfl⟩
      · exact .inr ⟨_, rfl⟩
      · exact .inl ⟨_, _, rfl⟩
  refine Yields.bind fun c => ?_
  split
  · exact .bind fun _ => .bind fun _ => hdecoded _
  · exact .bind fun _ => .bind fun _ => .bind fun _ => hdecoded _

theorem yields_fetchPretreeItem : Yields (PlaceHolds .pretreeItem) fetchPretreeItem := by
  have hdecoded (fields : List Field) : Yields (PlaceHolds .pretreeItem) (decoded .pretreeItem fields) :=
    yields_decoded fun i h => by
      obtain ⟨_, _, _, -, -, -, rfl⟩ := decode_pretreeItem_eq_ok.1 h
      exact ⟨_, _, rfl⟩
  refine Yields.bind fun sym => ?_
  split
  · exact .bind fun _ => .bind fun _ => .bind fun _ => hdecoded _
  · exact .bind fun _ => hdecoded _

theorem yields_fetchMainItem : Yields (PlaceHolds .mainItem) fetchMainItem :=
  .bind fun _ => .bind fun _ => .bind fun _ => yields_decoded fun i h => by
    obtain ⟨_, _, _, -, -, -, hi⟩ := decode_mainItem_eq_ok.1 h
    exact mainInstr_cases hi

/-- The fetch yields what stands in its place. -/
theorem yields_fetchElement (k : ElemKind) : Yields (PlaceHolds k) (fetchElement k) := by
  cases k with
  | chunkHeader => exact yields_fetchChunkHeader
  | pretreeItem => exact yields_fetchPretreeItem
  | mainItem => exact yields_fetchMainItem
  | transform =>
    exact .bind fun _ => yields_decoded fun i h => by
      obtain ⟨_, -, -, rfl⟩ := decode_transform_eq_ok.1 h
      exact ⟨_, rfl⟩
  | blockHeader =>
    exact .bind fun _ => .bind fun _ => .bind fun _ => .bind fun _ => yields_decoded fun i h => by
      obtain ⟨_, _, _, -, -, rfl⟩ := decode_blockHeader_eq_ok.1 h
      exact ⟨_, _, rfl⟩
  | alignedLengths =>
    exact .bind fun _ => yields_decoded fun i h => by
      obtain ⟨_, -, -, rfl⟩ := decode_alignedLengths_eq_ok.1 h
      exact ⟨_, rfl⟩
  | pretree =>
    exact .bind fun _ => yields_decoded fun i h => by
      obtain ⟨_, -, -, rfl⟩ := decode_pretree_eq_ok.1 h
      exact ⟨_, rfl⟩
  | lengthFooter =>
    exact .bind fun _ => yields_decoded fun i h => by
      obtain ⟨_, -, -, rfl⟩ := decode_lengthFooter_eq_ok.1 h
      exact ⟨_, rfl⟩
  | alignedSymbol =>
    exact .bind fun _ => yields_decoded fun i h => by
      obtain ⟨_, -, -, rfl⟩ := decode_alignedSymbol_eq_ok.1 h
      exact ⟨_, rfl⟩
  | align => exact yields_decoded (fmt := .align) (fields := []) fun i h => (decode_align_eq_ok.1 h).2
  | uncompBytes => exact yields_decoded (fmt := .uncompBytes) (fields := []) fun i h => (decode_uncompBytes_eq_ok.1 h).2
  | uncompReps =>
    exact .bind fun _ => .bind fun _ => .bind fun _ => .bind fun _ => .bind fun _ => .bind fun _ =>
      yields_decoded fun i h => by
        obtain ⟨_, _, _, -, -, rfl⟩ := decode_uncompReps_eq_ok.1 h
        exact ⟨_, _, _, rfl⟩

end Sys2Proof.Machine

namespace Sys2Proof.Machine

open Sys2Proof.Safety

/-! ## What a fetch can write -/

/-- The cursors, and the fields that are latched as they are read (60_exceptions.md R177). -/
def Fetched (s t : State) : Prop :=
  ∃ v : State, t = { s with
    byteOffset := v.byteOffset, bitOffset := v.bitOffset, blockType := v.blockType, alignedLen := v.alignedLen
    pretreeLen := v.pretreeLen, rep0 := v.rep0, rep1 := v.rep1, rep2 := v.rep2 }

theorem Fetched.preorder : Preorder Fetched where
  refl s := ⟨s, rfl⟩
  trans := by
    rintro s _ _ ⟨v, rfl⟩ ⟨w, rfl⟩
    exact ⟨w, rfl⟩

theorem Fetched.tmp {s t : State} (h : Fetched s t) : t.tmp = s.tmp := by
  obtain ⟨v, rfl⟩ := h
  rfl

/-- A procedure that writes no more than a fetch can write. -/
abbrev Fetches {α : Type} (p : Proc α) : Prop := Leads Fetched p

section
variable {α β : Type}

theorem Leads.mono {R S : State → State → Prop} {p : Proc α} (hp : Leads R p) (h : ∀ s t, R s t → S s t) : Leads S p :=
  fun s hs => ⟨trivial, h _ _ (hp s hs).2⟩

theorem Fetches.of_moves {p : Proc α} (hp : Moves p) : Fetches p := by
  refine hp.mono ?_
  rintro s _ ⟨b, k, rfl⟩
  exact ⟨s.withCursor b k, rfl⟩

theorem Fetches.pure (a : α) : Fetches (Pure.pure a : Proc α) := Keeps.pure Fetched.preorder a

theorem Fetches.bind {p : Proc α} {f : α → Proc β} (hp : Fetches p) (hf : ∀ a, Fetches (f a)) : Fetches (p >>= f) :=
  Keeps.bind Fetched.preorder hp hf

theorem Fetches.latch {f : State → State} (h : ∀ s, Fetched s (f s)) : Fetches (update f) := Leads.of_left h

end

theorem moves_decodeTree (x : Tree) : Moves (decodeTree x) := Leads.bind_get fun _ => moves_decodeSym _ _ _

theorem moves_readField (k : FieldKind) : Moves (readField k) := by
  cases k with
  | raw w => exact (moves_readBits w).bind fun _ => Moves.pure _
  | sym x => exact (moves_decodeTree x).bind fun _ => Moves.pure _

theorem moves_readFields (ks : List FieldKind) : Moves (readFields ks) := by
  induction ks with
  | nil => exact Moves.pure _
  | cons k ks ih => exact (moves_readField k).bind fun _ => ih.bind fun _ => Moves.pure _

theorem moves_decoded (fmt : Format) (fields : List Field) : Moves (decoded fmt fields) := by
  unfold decoded
  split
  · exact Moves.pure _
  · exact Moves.of_stays fun _ => rfl

theorem fetches_decoded (fmt : Format) (fields : List Field) : Fetches (decoded fmt fields) :=
  .of_moves (moves_decoded fmt fields)

theorem moves_lzxInt16 : Moves lzxInt16 := (moves_readRaw 2).bind fun _ => Moves.pure _

theorem moves_fetchChunkHeader : Moves fetchChunkHeader := by
  refine moves_readByte.bind fun c => Keeps.ite (fun _ => ?_) fun _ => ?_
  · exact moves_lzxInt16.bind fun _ => moves_lzxInt16.bind fun _ => moves_decoded _ _
  · exact Leads.bind_get fun _ => (moves_writeByteOffset _).bind fun _ => moves_lzxInt16.bind fun _ => moves_decoded _ _

theorem moves_checkRun (count : Nat) : Moves (checkRun count) := Moves.of_stays fun s => by
  unfold checkRun
  split <;> rfl

theorem moves_fetchPretreeItem : Moves fetchPretreeItem := by
  refine (moves_decodeTree _).bind fun sym => Keeps.ite (fun _ => ?_) fun _ => ?_
  · exact (moves_readBits 1).bind fun _ => (moves_checkRun _).bind fun _ => (moves_decodeTree _).bind fun _ =>
      moves_decoded _ _
  · exact (moves_readFields _).bind fun _ => moves_decoded _ _

theorem moves_fetchMainItem : Moves fetchMainItem :=
  (moves_decodeTree _).bind fun _ => Leads.bind_get fun _ => (moves_readFields _).bind fun _ => moves_decoded _ _

theorem fetches_fetchBlockHeader : Fetches fetchBlockHeader := by
  have hbits (n : Nat) : Fetches (readBits n) := .of_moves (moves_readBits n)
  exact (hbits 3).bind fun type =>
    (Fetches.latch fun s => ⟨{ s with blockType := BitVec.ofNat 3 type }, rfl⟩).bind fun _ =>
      (hbits 16).bind fun _ => (hbits 8).bind fun _ => fetches_decoded _ _

theorem fetches_readLengthFields {latch : Nat → Nat → State → State} (h : ∀ i v s, Fetched s (latch i v s))
    (w n i : Nat) : Fetches (readLengthFields w latch n i) := by
  induction n generalizing i with
  | zero => exact Fetches.pure _
  | succ n ih =>
    exact (Fetches.of_moves (moves_readBits w)).bind fun v => (Fetches.latch (h i v)).bind fun _ =>
      (ih _).bind fun _ => Fetches.pure _

theorem fetches_fetchUncompReps : Fetches fetchUncompReps := by
  have hread : Fetches readU32 := .of_moves ((moves_readRaw 4).bind fun _ => Moves.pure _)
  exact hread.bind fun r0 => (Fetches.latch fun s => ⟨{ s with rep0 := BitVec.ofNat 32 r0 }, rfl⟩).bind fun _ =>
    hread.bind fun r1 => (Fetches.latch fun s => ⟨{ s with rep1 := BitVec.ofNat 32 r1 }, rfl⟩).bind fun _ =>
      hread.bind fun r2 => (Fetches.latch fun s => ⟨{ s with rep2 := BitVec.ofNat 32 r2 }, rfl⟩).bind fun _ =>
        fetches_decoded _ _

theorem fetches_fetchElement (k : ElemKind) : Fetches (fetchElement k) := by
  cases k with
  | chunkHeader => exact .of_moves moves_fetchChunkHeader
  | blockHeader => exact fetches_fetchBlockHeader
  | alignedLengths =>
    exact (fetches_readLengthFields (fun i v s => ⟨latchAlignedLen i v s, rfl⟩) 3 8 0).bind fun _ => fetches_decoded _ _
  | pretree =>
    exact (fetches_readLengthFields (fun i v s => ⟨latchPretreeLen i v s, rfl⟩) 4 20 0).bind fun _ =>
      fetches_decoded _ _
  | pretreeItem => exact .of_moves moves_fetchPretreeItem
  | mainItem => exact .of_moves moves_fetchMainItem
  | transform | lengthFooter | alignedSymbol =>
    exact .of_moves ((moves_readField _).bind fun _ => moves_decoded _ _)
  | align => exact fetches_decoded .align []
  | uncompReps => exact fetches_fetchUncompReps
  | uncompBytes => exact fetches_decoded .uncompBytes []

/-! ## An element run inside a command -/

section
variable {k : ElemKind} {i : Instr} {s t u : State}

theorem fetched_of_fetchElement (h : fetchElement k s = .ok i u) : Fetched s u :=
  (Keeps.ok (fetches_fetchElement k) trivial h).2

/-- What `ElementRun` says of an element is what the engine does with it: fetch it and run its procedure. -/
theorem elementRun_iff (hs : s.faulted = false) :
    ElementRun k s i t ↔ ∃ u, fetchElement k s = .ok i u ∧ runElement i u = .ok () t := by
  constructor
  · rintro ⟨u, hfetch, hexec, ht⟩
    obtain ⟨fmt, fields, he⟩ := fetchElement_isElement hfetch
    rw [exec_element he] at hexec
    rcases element_eq_next hexec with ⟨hu, -⟩ | ⟨-, hrun⟩ | ⟨-, c, v, -, rfl⟩
    · rw [fetchElement_faulted hfetch, hs] at hu
      cases hu
    · exact ⟨u, hfetch, hrun⟩
    · cases ht
  · rintro ⟨u, hfetch, hrun⟩
    obtain ⟨fmt, fields, he⟩ := fetchElement_isElement hfetch
    have hu : u.faulted = false := (fetchElement_faulted hfetch).trans hs
    exact ⟨u, hfetch, (exec_element he u).trans (element_of_ok hu hrun),
      ((framed_runElement i).ok hrun).1.faulted.trans hu⟩

theorem runNext_eq_ok (hs : s.faulted = false) : runNext k s = .ok () t ↔ ∃ i, ElementRun k s i t := by
  simp only [runNext, Proc.bind_eq_ok, elementRun_iff hs]

theorem runNext_of_elementRun (hs : s.faulted = false) (h : ElementRun k s i t) : runNext k s = .ok () t :=
  (runNext_eq_ok hs).2 ⟨i, h⟩

theorem faulted_of_elementRun (h : ElementRun k s i t) : t.faulted = false := by
  obtain ⟨u, -, -, ht⟩ := h
  exact ht

theorem placeHolds_of_elementRun (h : ElementRun k s i t) : PlaceHolds k i := by
  obtain ⟨u, hfetch, -⟩ := h
  exact yields_fetchElement k s i u hfetch

theorem Framed.faulted {α : Type} {p : Proc α} (hp : Framed p) {a : α} (h : p s = .ok a t) (hs : s.faulted = false) :
    t.faulted = false :=
  (hp.ok h).1.faulted.trans hs

end

/-! ## O59: the ranges of lengths -/

section
variable {s t u : State} {x : Tree} {n : Nat}

theorem tmp_of_writeRun {count : Nat} {value : State → Nat} (h : writeRun count value s = .ok () t) :
    t.tmp = { s.tmp with idx := s.tmp.idx + count } := by
  rcases writeRun_cases count value s with ⟨-, hrun⟩ | ⟨-, -, hrun⟩ | ⟨-, -, hrun⟩ <;> rw [hrun] at h <;> cases h
  simp

/-- Every pretree item moves the index on in its range. -/
theorem runElement_pretreeInstr {sym : Nat} {vs : List Nat} (h : runElement (pretreeInstr sym vs) s = .ok () t) :
    ∃ count, 0 < count ∧ t.tmp = { s.tmp with idx := s.tmp.idx + count } := by
  unfold pretreeInstr at h
  split_ifs at h
  · exact ⟨1, Nat.one_pos, tmp_of_writeRun (value := fun s => s.deltaValue _) h⟩
  · exact ⟨_, Nat.succ_pos _, tmp_of_writeRun (value := fun _ => 0) h⟩
  · exact ⟨_, Nat.succ_pos _, tmp_of_writeRun (value := fun _ => 0) h⟩
  · obtain ⟨_, v, hcheck, hrest⟩ := Proc.bind_eq_ok.1 h
    obtain rfl : v = s := by
      unfold checkRun at hcheck
      split at hcheck <;> cases hcheck
      rfl
    split at hrest
    · cases hrest
    · exact ⟨_, Nat.succ_pos _, tmp_of_writeRun (value := fun s => s.deltaValue _) hrest⟩

theorem tmp_of_pretreeItem {i : Instr} (hs : s.faulted = false) (h : ElementRun .pretreeItem s i t) :
    ∃ count, 0 < count ∧ t.tmp = { s.tmp with idx := s.tmp.idx + count } := by
  obtain ⟨sym, vs, rfl⟩ := placeHolds_of_elementRun h
  obtain ⟨u, hfetch, hrun⟩ := (elementRun_iff hs).1 h
  rw [← (fetched_of_fetchElement hfetch).tmp]
  exact runElement_pretreeInstr hrun

/-- The loop of ReadLengths runs the items up to the end of the range; every item takes an entry, so the entries left
bound the loop (43_lzx_blocks.md R147). -/
theorem pretreeItems_eq_ok (hs : s.faulted = false) (hn : s.tmp.last - s.tmp.idx ≤ n) :
    pretreeItems n s = .ok () t ↔ PretreeItemsRun s t := by
  constructor
  · intro h
    induction n generalizing s with
    | zero =>
      unfold pretreeItems at h
      split at h <;> cases h
      exact .done _ (by omega)
    | succ n ih =>
      rw [pretreeItems, Proc.bind_get] at h
      split at h
      next hlt =>
        obtain ⟨_, u, hitem, hrest⟩ := Proc.bind_eq_ok.1 h
        obtain ⟨i, hi⟩ := (runNext_eq_ok hs).1 hitem
        obtain ⟨count, hcount, htmp⟩ := tmp_of_pretreeItem hs hi
        refine .item s u t i hlt hi (ih (faulted_of_elementRun hi) ?_ hrest)
        simp only [htmp]
        omega
      next hge =>
        cases h
        exact .done _ (by omega)
  · intro h
    induction h generalizing n with
    | done s hge =>
      cases n with
      | zero => exact if_neg (by omega)
      | succ n =>
        rw [pretreeItems, Proc.bind_get, if_neg (by omega)]
        rfl
    | item s u t i hlt hi _ ih =>
      obtain ⟨count, hcount, htmp⟩ := tmp_of_pretreeItem hs hi
      obtain ⟨n, rfl⟩ : ∃ m, n = m + 1 := ⟨n - 1, by omega⟩
      rw [pretreeItems, Proc.bind_get, if_pos hlt, Proc.bind_of_ok (runNext_of_elementRun hs hi)]
      refine ih (faulted_of_elementRun hi) ?_
      simp only [htmp]
      omega

/-- The range of ReadLengths taken into the temporaries. -/
def rangeBegun (s : State) (a : LenArray) (first last : Nat) : State :=
  { s with tmp := { s.tmp with array := a, idx := first, last := last } }

/-- ReadLengths: the pretree, then the items of the range. -/
theorem readLengths_eq_ok {a : LenArray} {first last : Nat} (hs : s.faulted = false) :
    readLengths a first last s = .ok () t ↔ RangeRead a first last s t := by
  constructor
  · intro h
    obtain ⟨_, u, hpretree, h⟩ := Proc.bind_eq_ok.1 h
    obtain ⟨i, hi⟩ := (runNext_eq_ok hs).1 hpretree
    obtain ⟨p, rfl⟩ := placeHolds_of_elementRun hi
    have hu : (rangeBegun u a first last).faulted = false := faulted_of_elementRun (t := u) hi
    exact ⟨p, u, hi, (pretreeItems_eq_ok hu (Nat.le_refl _)).1 h⟩
  · rintro ⟨p, u, hi, hitems⟩
    rw [readLengths, Proc.bind_of_ok (runNext_of_elementRun hs hi), Proc.bind_update]
    have hu : (rangeBegun u a first last).faulted = false := faulted_of_elementRun (t := u) hi
    exact (pretreeItems_eq_ok hu (Nat.le_refl _)).2 hitems

theorem faulted_of_rangeRead {a : LenArray} {first last : Nat} (h : RangeRead a first last s t)
    (hs : s.faulted = false) : t.faulted = false :=
  (framed_readLengths a first last).faulted ((readLengths_eq_ok hs).2 h) hs

theorem buildTree_eq_ok : buildTree x s = .ok () t ↔ TreeBuilt x s t := by
  rcases buildTree_cases x s with ⟨ls, hbuild, h⟩ | ⟨c, hbuild, h⟩ <;> rw [h]
  · constructor
    · intro ht
      cases ht
      exact ⟨⟨true, ls⟩, ⟨rfl, hbuild⟩, rfl⟩
    · rintro ⟨⟨valid, leaves⟩, ⟨rfl, htab⟩, rfl⟩
      cases hbuild.symm.trans htab
      rfl
  · constructor
    · intro ht
      cases ht
    · rintro ⟨tab, ⟨-, htab⟩, -⟩
      cases hbuild.symm.trans htab

theorem faulted_of_treeBuilt (h : TreeBuilt x s t) (hs : s.faulted = false) : t.faulted = false :=
  (framed_buildTree x).faulted (buildTree_eq_ok.2 h) hs

/-- VerbatimTrees() in the order of its parts (43_lzx_blocks.md R145). -/
theorem verbatimTrees_eq_ok (hs : s.faulted = false) : verbatimTrees s = .ok () t ↔ VerbatimTreesRead s t := by
  constructor
  · intro h
    obtain ⟨_, a, h1, h⟩ := Proc.bind_eq_ok.1 h
    obtain ⟨_, b, h2, h⟩ := Proc.bind_eq_ok.1 h
    obtain ⟨_, c, h3, h⟩ := Proc.bind_eq_ok.1 h
    obtain ⟨_, d, h4, h5⟩ := Proc.bind_eq_ok.1 h
    have low := (readLengths_eq_ok hs).1 h1
    have ha := faulted_of_rangeRead low hs
    have high := (readLengths_eq_ok ha).1 h2
    have main := buildTree_eq_ok.1 h3
    have hc := faulted_of_treeBuilt main (faulted_of_rangeRead high ha)
    have length := (readLengths_eq_ok hc).1 h4
    exact ⟨a, b, c, d, low, high, main, length, buildTree_eq_ok.1 h5⟩
  · rintro ⟨a, b, c, d, low, high, main, length, built⟩
    have ha := faulted_of_rangeRead low hs
    have hc := faulted_of_treeBuilt main (faulted_of_rangeRead high ha)
    rw [verbatimTrees, Proc.bind_of_ok ((readLengths_eq_ok hs).2 low),
      Proc.bind_of_ok ((readLengths_eq_ok ha).2 high), Proc.bind_of_ok (buildTree_eq_ok.2 main),
      Proc.bind_of_ok ((readLengths_eq_ok hc).2 length)]
    exact buildTree_eq_ok.2 built

end

/-! ## O59: the block header -/

section
variable {s t u : State} {size : BitVec 24} {type : BitVec 3} {i : Instr}

/-- The type in BLOCK_TYPE decides what follows a header (43_lzx_blocks.md R141). -/
theorem readBlockHeader_run (hs : s.faulted = false) (h : ElementRun .blockHeader s i u) :
    readBlockHeader s = (if u.blockType = 2 then runNext .alignedLengths >>= fun _ => verbatimTrees
      else if u.blockType = 1 then verbatimTrees
      else if u.blockType = 3 then runNext .align >>= fun _ => runNext .uncompReps
      else raise .invalidBlockType : Proc Unit) u :=
  Proc.bind_of_ok (runNext_of_elementRun hs h)

/-- A header that runs has latched its type. -/
theorem blockType_of_elementRun (hs : s.faulted = false) (h : ElementRun .blockHeader s i u)
    (hi : runElement i = blockHeader type size) : u.blockType = type := by
  obtain ⟨v, -, hrun⟩ := (elementRun_iff hs).1 h
  rw [hi] at hrun
  cases hrun
  rfl

/-- The aligned tree stands before the ranges of an Aligned block (43_lzx_blocks.md R144). -/
theorem alignedTrees_eq_ok (hs : s.faulted = false) :
    (runNext .alignedLengths >>= fun _ => verbatimTrees) s = .ok () t ↔
      ∃ a v, ElementRun .alignedLengths s (.alignedLengths a) v ∧ VerbatimTreesRead v t := by
  rw [Proc.bind_eq_ok]
  constructor
  · rintro ⟨_, v, hlens, htrees⟩
    obtain ⟨i, hi⟩ := (runNext_eq_ok hs).1 hlens
    obtain ⟨a, rfl⟩ := placeHolds_of_elementRun hi
    exact ⟨a, v, hi, (verbatimTrees_eq_ok (faulted_of_elementRun hi)).1 htrees⟩
  · rintro ⟨a, v, hi, htrees⟩
    exact ⟨(), v, runNext_of_elementRun hs hi, (verbatimTrees_eq_ok (faulted_of_elementRun hi)).2 htrees⟩

/-- The offsets of an Uncompressed block stand at a frame boundary (43_lzx_blocks.md R146). -/
theorem alignedReps_eq_ok (hs : s.faulted = false) :
    (runNext .align >>= fun _ => runNext .uncompReps) s = .ok () t ↔
      ∃ v r0 r1 r2, ElementRun .align s .streamAlign v ∧ ElementRun .uncompReps v (.uncompReps r0 r1 r2) t := by
  rw [Proc.bind_eq_ok]
  constructor
  · rintro ⟨_, v, halign, hreps⟩
    obtain ⟨i, hi⟩ := (runNext_eq_ok hs).1 halign
    obtain ⟨j, hj⟩ := (runNext_eq_ok (faulted_of_elementRun hi)).1 hreps
    obtain rfl : i = .streamAlign := placeHolds_of_elementRun hi
    obtain ⟨r0, r1, r2, rfl⟩ := placeHolds_of_elementRun hj
    exact ⟨v, r0, r1, r2, hi, hj⟩
  · rintro ⟨v, r0, r1, r2, hi, hj⟩
    exact ⟨(), v, runNext_of_elementRun hs hi, runNext_of_elementRun (faulted_of_elementRun hi) hj⟩

end

/-- Settles O59: the header's type leads to its branch, and each branch is the order of its elements. -/
theorem blockHeadersReadTheirTrees : Obligations.BlockHeadersReadTheirTrees := by
  intro s t u size hs
  refine ⟨fun h => ?_, fun h => ?_, fun h => ?_⟩
  · rw [readBlockHeader_run hs h, blockType_of_elementRun hs h (type := 1) rfl]
    exact verbatimTrees_eq_ok (faulted_of_elementRun h)
  · rw [readBlockHeader_run hs h, blockType_of_elementRun hs h (type := 2) rfl]
    exact alignedTrees_eq_ok (faulted_of_elementRun h)
  · rw [readBlockHeader_run hs h, blockType_of_elementRun hs h (type := 3) rfl]
    exact alignedReps_eq_ok (faulted_of_elementRun h)

end Sys2Proof.Machine

namespace Sys2Proof.Machine

open Sys2Proof.Safety

/-! ## O19: what the engine leaves of the framer -/

/-- FRM_CONSUMED and FRM_OUT stay. -/
structure SameFramer (s t : State) : Prop where
  frmConsumed : t.frmConsumed = s.frmConsumed
  frmOut : t.frmOut = s.frmOut

/-- So do they and the bytes owed to the frame: what no element inside a chunk writes. -/
structure SameOwed (s t : State) : Prop extends SameFramer s t where
  togo : t.tmp.togo = s.tmp.togo

theorem SameFramer.preorder : Preorder SameFramer where
  refl _ := ⟨rfl, rfl⟩
  trans h k := ⟨k.frmConsumed.trans h.frmConsumed, k.frmOut.trans h.frmOut⟩

theorem SameOwed.preorder : Preorder SameOwed where
  refl s := ⟨SameFramer.preorder.refl s, rfl⟩
  trans h k := ⟨SameFramer.preorder.trans h.toSameFramer k.toSameFramer, k.togo.trans h.togo⟩

/-- A procedure that writes none of the three. -/
abbrev KeepsOwed {α : Type} (p : Proc α) : Prop := Leads SameOwed p

section
variable {α β : Type}

theorem KeepsOwed.pure (a : α) : KeepsOwed (Pure.pure a : Proc α) := Keeps.pure SameOwed.preorder a

theorem KeepsOwed.raise (c : Cause) : KeepsOwed (raise c : Proc α) := Keeps.raise SameOwed.preorder c

theorem KeepsOwed.halt (f : Fault) : KeepsOwed (halt f : Proc α) := Keeps.halt SameOwed.preorder f

theorem KeepsOwed.bind {p : Proc α} {f : α → Proc β} (hp : KeepsOwed p) (hf : ∀ a, KeepsOwed (f a)) :
    KeepsOwed (p >>= f) :=
  Keeps.bind SameOwed.preorder hp hf

theorem KeepsOwed.update {f : State → State} (h : ∀ s, SameOwed s (f s)) : KeepsOwed (update f) := Leads.of_left h

theorem KeepsOwed.of_fetches {p : Proc α} (hp : Fetches p) : KeepsOwed p := by
  refine hp.mono ?_
  rintro s _ ⟨v, rfl⟩
  exact ⟨⟨rfl, rfl⟩, rfl⟩

theorem KeepsOwed.of_moves {p : Proc α} (hp : Moves p) : KeepsOwed p := .of_fetches (.of_moves hp)

end

theorem keepsOwed_buildTree (x : Tree) : KeepsOwed (buildTree x) := Leads.of_left fun s => by
  rcases buildTree_cases x s with ⟨t, -, h⟩ | ⟨c, -, h⟩ <;> rw [h]
  all_goals exact ⟨⟨State.setTable_frmConsumed _ _ _, State.setTable_frmOut _ _ _⟩, by simp⟩

theorem keepsOwed_writeRun (count : Nat) (value : State → Nat) : KeepsOwed (writeRun count value) :=
  Leads.of_left fun s => by
    rcases writeRun_cases count value s with ⟨-, h⟩ | ⟨-, -, h⟩ | ⟨-, -, h⟩ <;> rw [h]
    · exact SameOwed.preorder.refl s
    · exact SameOwed.preorder.refl s
    · exact ⟨⟨by simp, by simp⟩, by simp⟩

theorem keepsOwed_winWrite (i : Nat) (v : Byte) : KeepsOwed (winWrite i v) := Leads.of_left fun s => by
  unfold winWrite
  split <;> exact ⟨⟨rfl, rfl⟩, rfl⟩

theorem moves_winRead (i : Nat) : Moves (winRead i) := Moves.of_stays fun s => by
  unfold winRead
  split <;> rfl

theorem moves_readWindow (cells : List Nat) : Moves (readWindow cells) := Moves.of_stays fun s => by
  rcases readWindow_cases cells s with ⟨bs, h, -⟩ | h <;> rw [h] <;> rfl

theorem keepsOwed_writeWindow (i : Nat) (bs : List Byte) : KeepsOwed (writeWindow i bs) := by
  induction bs generalizing i with
  | nil => exact KeepsOwed.pure _
  | cons b bs ih => exact (keepsOwed_winWrite _ _).bind fun _ => ih _

theorem keepsOwed_copyLoop (off n i : Nat) : KeepsOwed (copyLoop off n i) := by
  induction n generalizing i with
  | zero => exact KeepsOwed.pure _
  | succ n ih =>
    exact (KeepsOwed.of_moves (moves_winRead _)).bind fun _ => (keepsOwed_winWrite _ _).bind fun _ => ih _

theorem keepsOwed_finishMatch : KeepsOwed finishMatch := by
  have hcheck (c : State → Prop) [DecidablePred c] (k : Cause) :
      Moves (fun s => if c s then .error (.raise k) s else .ok () s : Proc Unit) := Moves.of_stays fun s => by
    split <;> rfl
  exact (KeepsOwed.of_moves (hcheck _ _)).bind fun _ => (KeepsOwed.of_moves (hcheck _ _)).bind fun _ =>
    Leads.bind_get fun _ => (keepsOwed_copyLoop _ _ _).bind fun _ => KeepsOwed.update fun _ => ⟨⟨rfl, rfl⟩, rfl⟩

theorem sameOwed_cacheAfter (s : State) (len : Nat) (src : OffsetSource) : SameOwed s (cacheAfter s len src) := by
  rcases src with ⟨k, hk⟩ | off
  · interval_cases k <;> exact ⟨⟨rfl, rfl⟩, rfl⟩
  · exact ⟨⟨rfl, rfl⟩, rfl⟩

theorem keepsOwed_match {i : Instr} {len : Nat} {src : OffsetSource} (h : matchForm i = some (len, src)) :
    KeepsOwed (runElement i) := Leads.of_left fun s => by
  obtain ⟨-, hrun⟩ := runElement_of_matchForm h s
  rw [hrun]
  exact SameOwed.preorder.trans (sameOwed_cacheAfter s len src) (keepsOwed_finishMatch _ trivial).2

theorem keepsOwed_lit (c : Byte) : KeepsOwed (doLit c) :=
  Leads.bind_get fun _ => Keeps.ite (fun _ => KeepsOwed.halt _) fun _ =>
    (keepsOwed_winWrite _ _).bind fun _ => KeepsOwed.update fun _ => ⟨⟨rfl, rfl⟩, rfl⟩

theorem keepsOwed_uncompBytes : KeepsOwed doUncompBytes :=
  Leads.bind_get fun _ => Keeps.ite (fun _ => KeepsOwed.raise _) fun _ =>
    (KeepsOwed.of_moves (moves_readRaw _)).bind fun _ => (keepsOwed_writeWindow _ _).bind fun _ =>
      KeepsOwed.update fun _ => ⟨⟨rfl, rfl⟩, rfl⟩

theorem keepsOwed_blockInstr (type : Nat) (size : BitVec 24) : KeepsOwed (runElement (blockInstr type size)) := by
  have hheader (t : BitVec 3) : KeepsOwed (blockHeader t size) := KeepsOwed.update fun _ => ⟨⟨rfl, rfl⟩, rfl⟩
  unfold blockInstr
  split_ifs
  · exact (hheader 0).bind fun _ => KeepsOwed.raise _
  · exact hheader 1
  · exact hheader 2
  · exact hheader 3
  · exact (hheader _).bind fun _ => KeepsOwed.raise _

theorem keepsOwed_pretreeInstr (sym : Nat) (vs : List Nat) : KeepsOwed (runElement (pretreeInstr sym vs)) := by
  unfold pretreeInstr
  split_ifs
  · exact keepsOwed_writeRun _ _
  · exact keepsOwed_writeRun _ _
  · exact keepsOwed_writeRun _ _
  · exact (KeepsOwed.of_moves (moves_checkRun _)).bind fun _ =>
      Keeps.ite (fun _ => KeepsOwed.raise _) fun _ => keepsOwed_writeRun _ _

/-- No element but a chunk header writes the framer's registers, and none the bytes owed. -/
theorem keepsOwed_runElement {k : ElemKind} (hk : k ≠ .chunkHeader) {i : Instr} (hi : PlaceHolds k i) :
    KeepsOwed (runElement i) := by
  cases k with
  | chunkHeader => exact absurd rfl hk
  | transform =>
    obtain ⟨b, rfl⟩ := hi
    exact Keeps.ite (fun _ => KeepsOwed.update fun _ => ⟨⟨rfl, rfl⟩, rfl⟩) fun _ => KeepsOwed.raise _
  | blockHeader =>
    obtain ⟨type, size, rfl⟩ := hi
    exact keepsOwed_blockInstr type size
  | alignedLengths =>
    obtain ⟨a, rfl⟩ := hi
    exact KeepsOwed.bind (by exact KeepsOwed.update fun _ => ⟨⟨rfl, rfl⟩, rfl⟩) fun _ => keepsOwed_buildTree _
  | pretree =>
    obtain ⟨p, rfl⟩ := hi
    exact KeepsOwed.bind (by exact KeepsOwed.update fun _ => ⟨⟨rfl, rfl⟩, rfl⟩) fun _ => keepsOwed_buildTree _
  | pretreeItem =>
    obtain ⟨sym, vs, rfl⟩ := hi
    exact keepsOwed_pretreeInstr sym vs
  | mainItem =>
    rcases hi with ⟨c, rfl⟩ | ⟨len, src, h⟩
    · exact keepsOwed_lit c
    · exact keepsOwed_match h
  | lengthFooter =>
    obtain ⟨f, rfl⟩ := hi
    exact KeepsOwed.update fun _ => ⟨⟨rfl, rfl⟩, rfl⟩
  | alignedSymbol =>
    obtain ⟨a, rfl⟩ := hi
    exact KeepsOwed.update fun _ => ⟨⟨rfl, rfl⟩, rfl⟩
  | align =>
    obtain rfl := hi
    exact KeepsOwed.of_moves moves_alignCursor
  | uncompReps =>
    obtain ⟨r0, r1, r2, rfl⟩ := hi
    exact KeepsOwed.update fun _ => ⟨⟨rfl, rfl⟩, rfl⟩
  | uncompBytes =>
    obtain rfl := hi
    exact keepsOwed_uncompBytes

theorem keepsOwed_runNext {k : ElemKind} (hk : k ≠ .chunkHeader) : KeepsOwed (runNext k) := Leads.of_left fun s => by
  have hfetch := (KeepsOwed.of_fetches (fetches_fetchElement k) s trivial).2
  cases h : fetchElement k s with
  | error e u =>
    rw [h] at hfetch
    rw [runNext, Proc.bind_of_error h]
    exact hfetch
  | ok i u =>
    rw [h] at hfetch
    rw [runNext_of_fetched h]
    exact SameOwed.preorder.trans hfetch (keepsOwed_runElement hk (yields_fetchElement k s i u h) u trivial).2

theorem keepsOwed_sessionHeader : KeepsOwed sessionHeader :=
  Leads.bind_get fun _ => Keeps.ite (fun _ => KeepsOwed.pure _) fun _ => keepsOwed_runNext (by decide)

theorem keepsOwed_pretreeItems (n : Nat) : KeepsOwed (pretreeItems n) := by
  induction n with
  | zero =>
    refine Leads.of_left fun s => ?_
    unfold pretreeItems
    split <;> exact SameOwed.preorder.refl s
  | succ n ih =>
    exact Leads.bind_get fun _ =>
      Keeps.ite (fun _ => (keepsOwed_runNext (by decide)).bind fun _ => ih) fun _ => KeepsOwed.pure _

theorem keepsOwed_readLengths (x : LenArray) (first last : Nat) : KeepsOwed (readLengths x first last) :=
  (keepsOwed_runNext (by decide)).bind fun _ =>
    KeepsOwed.bind (by exact KeepsOwed.update fun _ => ⟨⟨rfl, rfl⟩, rfl⟩) fun _ => keepsOwed_pretreeItems _

theorem keepsOwed_verbatimTrees : KeepsOwed verbatimTrees :=
  (keepsOwed_readLengths _ _ _).bind fun _ => (keepsOwed_readLengths _ _ _).bind fun _ =>
    (keepsOwed_buildTree _).bind fun _ => (keepsOwed_readLengths _ _ _).bind fun _ => keepsOwed_buildTree _

theorem keepsOwed_readBlockHeader : KeepsOwed readBlockHeader := by
  have hnext {k : ElemKind} (hk : k ≠ .chunkHeader) : KeepsOwed (runNext k) := keepsOwed_runNext hk
  exact (hnext (by decide)).bind fun _ => Leads.bind_get fun _ =>
    Keeps.ite (fun _ => (hnext (by decide)).bind fun _ => keepsOwed_verbatimTrees) fun _ =>
      Keeps.ite (fun _ => keepsOwed_verbatimTrees) fun _ =>
        Keeps.ite (fun _ => (hnext (by decide)).bind fun _ => hnext (by decide)) fun _ => KeepsOwed.raise _

theorem keepsOwed_compressedRun (n : Nat) : KeepsOwed (compressedRun n) := by
  induction n with
  | zero =>
    refine Leads.of_left fun s => ?_
    unfold compressedRun
    split <;> exact SameOwed.preorder.refl s
  | succ n ih =>
    exact Leads.bind_get fun _ =>
      Keeps.ite (fun _ => (keepsOwed_runNext (by decide)).bind fun _ => ih) fun _ => KeepsOwed.pure _

/-- A procedure that leaves the framer's registers. -/
abbrev KeepsFramer {α : Type} (p : Proc α) : Prop := Leads SameFramer p

theorem KeepsOwed.framer {α : Type} {p : Proc α} (hp : KeepsOwed p) : KeepsFramer p :=
  hp.mono fun _ _ h => h.toSameFramer

theorem KeepsFramer.pure {α : Type} (a : α) : KeepsFramer (Pure.pure a : Proc α) := Keeps.pure SameFramer.preorder a

theorem KeepsFramer.bind {α β : Type} {p : Proc α} {f : α → Proc β} (hp : KeepsFramer p) (hf : ∀ a, KeepsFramer (f a)) :
    KeepsFramer (p >>= f) :=
  Keeps.bind SameFramer.preorder hp hf

theorem keepsFramer_startRun (run : Nat) : KeepsFramer (startRun run) := Leads.of_left fun s => by
  rw [startRun_run]
  split <;> exact ⟨rfl, rfl⟩

theorem keepsFramer_runStep : KeepsFramer runStep :=
  Leads.bind_get fun _ => Keeps.ite (fun _ => KeepsFramer.pure _) fun _ => (keepsFramer_startRun _).bind fun _ =>
    Keeps.ite (fun _ => (keepsOwed_compressedRun _).framer) fun _ => (keepsOwed_runNext (by decide)).framer

theorem keepsFramer_frameLoop (n : Nat) : KeepsFramer (frameLoop n) := by
  induction n with
  | zero =>
    refine Leads.of_left fun s => ?_
    unfold frameLoop
    split <;> exact SameFramer.preorder.refl s
  | succ n ih =>
    have hturn : KeepsFramer (runStep >>= fun _ => frameLoop n) := keepsFramer_runStep.bind fun _ => ih
    exact Leads.bind_get fun _ => Keeps.ite
      (fun _ => Keeps.ite (fun _ => keepsOwed_readBlockHeader.framer.bind fun _ => hturn) fun _ => hturn)
      fun _ => KeepsFramer.pure _

theorem keepsFramer_decompress (fs bs : Nat) : KeepsFramer (decompress fs bs) := by
  have hupdate (f : State → Temps → Temps) : KeepsFramer (update fun s => s.withTmp (f s)) :=
    Leads.of_left fun _ => ⟨rfl, rfl⟩
  exact (hupdate _).bind fun _ => keepsOwed_sessionHeader.framer.bind fun _ => (hupdate fun _ _ => _).bind fun _ =>
    Leads.bind_get fun _ => (keepsFramer_frameLoop _).bind fun _ =>
      (KeepsOwed.of_moves moves_alignCursor).framer.bind fun _ =>
        Leads.bind_get fun _ => (KeepsOwed.of_moves (moves_readWindow _)).framer

theorem keepsFramer_doLzxDecompress (fs bs : U32) : KeepsFramer (doLzxDecompress fs bs) :=
  Keeps.ite (fun _ => (KeepsOwed.raise _).framer) fun _ =>
    (keepsFramer_decompress _ _).bind fun _ => KeepsFramer.pure _

theorem commandwise_sameFramer : Commandwise SameFramer where
  preorder := SameFramer.preorder
  begins _ _ := ⟨rfl, rfl⟩
  answers _ _ := ⟨rfl, rfl⟩
  refuses _ := ⟨rfl, rfl⟩
  faults _ _ := ⟨rfl, rfl⟩

/-! ## O19: what both commands leave -/

/-- What O19 says of both commands, whatever their outcome. -/
structure SameHost (s t : State) : Prop where
  hostN : t.hostN = s.hostN
  hostTb : t.hostTb = s.hostTb
  hostLen : t.hostLen = s.hostLen
  hostTable : t.hostTable = s.hostTable
  store : t.store = s.store
  storeLen : t.storeLen = s.storeLen
  pending : t.pending = s.pending
  mainTail : ∀ j : Fin 656, 512 ≤ j.val → t.mainLen[j] = s.mainLen[j]
  lengthTail : t.lengthLen[249] = s.lengthLen[249]

theorem commandwise_sameHost : Commandwise SameHost where
  preorder :=
    { refl := fun _ => ⟨rfl, rfl, rfl, rfl, rfl, rfl, rfl, fun _ _ => rfl, rfl⟩
      trans := fun h k => ⟨k.1.trans h.1, k.2.trans h.2, k.3.trans h.3, k.4.trans h.4, k.5.trans h.5, k.6.trans h.6,
        k.7.trans h.7, fun j hj => (k.8 j hj).trans (h.8 j hj), k.9.trans h.9⟩ }
  begins _ _ := ⟨rfl, rfl, rfl, rfl, rfl, rfl, rfl, fun _ _ => rfl, rfl⟩
  answers _ _ := ⟨rfl, rfl, rfl, rfl, rfl, rfl, rfl, fun _ _ => rfl, rfl⟩
  refuses _ := ⟨rfl, rfl, rfl, rfl, rfl, rfl, rfl, fun _ _ => rfl, rfl⟩
  faults _ _ := ⟨rfl, rfl, rfl, rfl, rfl, rfl, rfl, fun _ _ => rfl, rfl⟩

theorem Framed.sameHost {α : Type} {p : Proc α} (hp : Framed p) : Leads SameHost p := Leads.of_left fun s => by
  obtain ⟨h, -⟩ := hp.left s
  exact ⟨h.hostN, h.hostTb, h.hostLen, h.hostTable, h.store, h.storeLen, h.pending, h.mainTail, h.lengthTail⟩

/-- A command that succeeds leaves the fault registers (60_exceptions.md R175). -/
theorem sameFaultRecord_of_ok {op : BitVec 8} {p : Proc Result} {s t : State} {r : Result} (hp : Framed p)
    (h : command op p s = .next t) (hr : t.response = some (.ok r)) : sameFaultRecord s t := by
  rcases command_eq_next h with ⟨-, rfl⟩ | ⟨-, _, u, hu, rfl⟩ | ⟨-, k, u, -, rfl⟩
  · cases hr
  · obtain ⟨h, -⟩ := hp.ok hu
    exact ⟨h.faulted, h.faultClass, h.faultCause, h.faultOpcode, h.faultByteOffset, h.faultBitOffset⟩
  · cases hr

/-- Settles O19: both commands run procedures within the engine's frame. -/
theorem engineCommandsFrame : Obligations.EngineCommandsFrame := by
  intro i s t a b hi h
  obtain ⟨op, p, hp, hcommand⟩ : ∃ op p, Framed p ∧ command op p s = .next t := by
    rcases hi with rfl | rfl
    · exact ⟨0x51, _, framed_doLzxDecompress a b, h⟩
    · exact ⟨0x60, _, framed_doFrmRun a b, h⟩
  have hhost := commandwise_sameHost.keeps_command hp.sameHost hcommand
  refine ⟨hhost.hostN, hhost.hostTb, hhost.hostLen, hhost.hostTable, hhost.store, hhost.storeLen, hhost.pending,
    hhost.mainTail, hhost.lengthTail, ?_, fun r hr _ => sameFaultRecord_of_ok hp hcommand hr⟩
  rintro rfl
  obtain ⟨hconsumed, hout⟩ := commandwise_sameFramer.keeps_command (keepsFramer_doLzxDecompress a b) h
  exact ⟨hconsumed, hout⟩

end Sys2Proof.Machine

namespace Sys2Proof.Machine

open Sys2Proof.Safety

/-! ## LZX_DECOMPRESS -/

section
variable {s h t : State} {fs bs : U32} {k : Nat} {c : Cause}

/-- LZX_DECOMPRESS with the chunk's start and sizes in its temporaries (43_lzx_blocks.md R139). -/
def chunkSized (s : State) (fs bs : Nat) : State :=
  { s with tmp := { opcode := 0x51, chunkStart := s.byteOff, fs := fs, bs := bs } }

/-- In an open session the frame loop comes at once (43_lzx_blocks.md R139, R140). -/
theorem decompress_of_open (hopen : s.headerRead = true) (fs bs : Nat) :
    decompress fs bs (s.begin 0x51) =
      (frameLoop (fs + 8 * s.storeLen.toNat + 1) >>= fun _ => alignCursor >>= fun _ => frameOutput fs)
        (frameBegun s fs bs) := by
  have hsession : sessionHeader (chunkSized s fs bs) = .ok () (chunkSized s fs bs) := by
    rw [sessionHeader, Proc.bind_get, if_pos (show (chunkSized s fs bs).headerRead = true from hopen)]
    rfl
  rw [decompress, Proc.bind_update]
  exact (Proc.bind_of_ok hsession).trans rfl

theorem doLzxDecompress_of_le (hfs : fs.toNat ≤ 65536) (hbs : bs.toNat ≤ 65536) (s : State) :
    doLzxDecompress fs bs s = (decompress fs.toNat bs.toNat >>= fun out => return .bytes out) s := by
  rw [doLzxDecompress, if_neg (show ¬(65536 < fs.toNat ∨ 65536 < bs.toNat) by omega)]

/-- A fault inside Decompress() is the command's. -/
theorem exec_lzxDecompress_of_raise (hs : s.faulted = false) (hfs : fs.toNat ≤ 65536) (hbs : bs.toNat ≤ 65536)
    (h : decompress fs.toNat bs.toNat (s.begin 0x51) = .error (.raise c) t) :
    exec (.lzxDecompress fs bs) s = .next (faultEntry c t) :=
  command_of_raise hs ((doLzxDecompress_of_le hfs hbs _).trans (Proc.bind_of_error h))

/-- A fault of the frame loop in an open session. -/
theorem exec_lzxDecompress_of_frame_raise (hs : s.faulted = false) (hopen : s.headerRead = true)
    (hfs : fs.toNat ≤ 65536) (hbs : bs.toNat ≤ 65536)
    (h : ∀ k, frameLoop (k + 1) (frameBegun s fs.toNat bs.toNat) = .error (.raise c) t) :
    exec (.lzxDecompress fs bs) s = .next (faultEntry c t) :=
  exec_lzxDecompress_of_raise hs hfs hbs ((decompress_of_open hopen _ _).trans (Proc.bind_of_error (h _)))

/-- A frame that is decoded in an open session is aligned, and its output is the response (43_lzx_blocks.md R139). -/
theorem exec_lzxDecompress_of_frame {out : List Byte} (hs : s.faulted = false) (hopen : s.headerRead = true)
    (hfs : fs.toNat ≤ 65536) (hbs : bs.toNat ≤ 65536)
    (h : ∀ k, frameLoop (k + 1) (frameBegun s fs.toNat bs.toNat) = .ok () t)
    (halign : t.bitOff = 0 ∨ t.byteOff + 2 < 2 ^ 32)
    (hout : frameOutput fs.toNat (aligned t) = .ok out (aligned t)) :
    exec (.lzxDecompress fs bs) s = .next (succeeded (.bytes out) (aligned t)) := by
  have hrun : decompress fs.toNat bs.toNat (s.begin 0x51) = .ok out (aligned t) := by
    rw [decompress_of_open hopen, Proc.bind_of_ok (h _), Proc.bind_of_ok (alignCursor_of_lt halign), hout]
  exact command_of_ok hs ((doLzxDecompress_of_le hfs hbs _).trans (Proc.bind_of_ok hrun))

/-- One turn of the frame loop inside a block. -/
theorem frameLoop_of_block (htogo : 0 < s.tmp.togo) (hblock : s.blockRemaining ≠ 0) :
    frameLoop (k + 1) s = (runStep >>= fun _ => frameLoop k) s := by
  rw [frameLoop, Proc.bind_get, if_pos htogo, if_neg hblock]

/-- One turn of the frame loop at a block header. -/
theorem frameLoop_of_header (htogo : 0 < s.tmp.togo) (hblock : s.blockRemaining = 0) :
    frameLoop (k + 1) s = (readBlockHeader >>= fun _ => runStep >>= fun _ => frameLoop k) s := by
  rw [frameLoop, Proc.bind_get, if_pos htogo, if_pos hblock]

/-- A run that is not empty is started; the block's type says how it goes on (43_lzx_blocks.md R142). -/
theorem runStep_of_pos {run : Nat} (hrun : min s.blockRemaining.toNat s.tmp.togo = run) (hpos : 0 < run) :
    runStep s = (startRun run >>= fun _ =>
      if s.blockType = 1 ∨ s.blockType = 2 then compressedRun run else runNext .uncompBytes) s := by
  rw [runStep, Proc.bind_get]
  simp only [hrun, if_neg (Nat.ne_of_gt hpos)]

theorem startRun_of_le {run : Nat} (h : s.windowPosn.toNat % 65536 + run ≤ 65536) :
    startRun run s = .ok () (s.atRun run) := by
  rw [startRun_run, if_neg (Nat.not_lt.2 h)]

theorem startRun_of_lt {run : Nat} (h : 65536 < s.windowPosn.toNat % 65536 + run) :
    startRun run s = .error (.raise .windowOverrun) (s.atRun run) := by
  rw [startRun_run, if_pos h]

end

/-! ## O55: the faults before anything is decoded -/

section
variable {s : State}

theorem sessionHeader_of_one (hsession : s.headerRead = false) (hin : framesPresent s 1)
    (hbit : streamBit s 0 = true) : sessionHeader s = .error (.raise .transformBitSet) (advanced s 1) := by
  rw [sessionHeader, Proc.bind_get, if_neg (by simp [hsession]), runNext_of_fetched (fetch_transform hin), hbit]
  rfl

/-- A header of an invalid type is latched before its fault (43_lzx_blocks.md R141). -/
theorem runNext_blockHeader_invalid (hin : framesPresent s 27)
    (htype : ofBits (streamBits s 3) = 0 ∨ 4 ≤ ofBits (streamBits s 3)) :
    runNext .blockHeader s = .error (.raise .invalidBlockType) { advanced s 27 with
      blockType := BitVec.ofNat 3 (ofBits (streamBits s 3))
      blockRemaining := BitVec.ofNat 24 (ofBits ((streamBits s 27).drop 3)) } := by
  rw [runNext_of_fetched (fetch_blockHeader hin)]
  have hlt := ofBits_streamBits_lt s 3
  generalize ofBits (streamBits s 3) = type at htype hlt
  rcases htype with rfl | htype
  · rfl
  · have hcode : 4 + (BitVec.ofNat 2 (type - 4)).toNat = type := by
      rw [BitVec.toNat_ofNat]
      omega
    rw [blockInstr_of_ge htype]
    change doBlockInvalid4to7 _ _ _ = _
    rw [doBlockInvalid4to7, hcode]
    rfl

/-- The bytes of a run may not pass the chunk's bound (44_lzx_decode.md R163). -/
theorem runNext_uncompBytes_overrun (h : s.tmp.chunkStart + s.tmp.bs < s.byteOff + s.tmp.run) :
    runNext .uncompBytes s = .error (.raise .uncompressedOverrun) s := by
  rw [runNext_of_fetched (u := s) (i := .uncompBytes) rfl]
  change doUncompBytes s = _
  rw [doUncompBytes, Proc.bind_get, if_pos h]
  rfl

end

/-- Settles O55, fault by fault. -/
theorem decompressHeaderFaults : Obligations.DecompressHeaderFaults := by
  intro s fs bs hs
  refine ⟨fun hbad => ?_, fun hfs hbs hclosed hin hbit => ?_, fun hpos hfs hbs hopen hheader hin htype => ?_,
    fun hpos hfs hbs hopen hblock => ?_⟩
  · exact command_faulting (t := s) hs (congrFun (if_pos hbad) _)
  · have hsession := sessionHeader_of_one (s := chunkSized s fs.toNat bs.toNat) hclosed hin hbit
    have hrun : decompress fs.toNat bs.toNat (s.begin 0x51) =
        .error (.raise .transformBitSet) (advanced (chunkSized s fs.toNat bs.toNat) 1) := by
      rw [decompress, Proc.bind_update]
      exact Proc.bind_of_error hsession
    exact exec_lzxDecompress_of_raise hs hfs hbs hrun
  · have hinvalid := runNext_blockHeader_invalid (s := frameBegun s fs.toNat bs.toNat) hin htype
    have hloop (k : Nat) := frameLoop_of_header (s := frameBegun s fs.toNat bs.toNat) (k := k) hpos hheader
    exact exec_lzxDecompress_of_frame_raise hs hopen hfs hbs fun k =>
      (hloop k).trans (Proc.bind_of_error (Proc.bind_of_error hinvalid))
  · intro run t
    have hremaining : 0 < s.blockRemaining.toNat := by
      refine Nat.pos_of_ne_zero fun h0 => hblock (BitVec.eq_of_toNat_eq h0)
    have hloop (k : Nat) := frameLoop_of_block (s := frameBegun s fs.toNat bs.toNat) (k := k) hpos hblock
    have hstep := runStep_of_pos (s := frameBegun s fs.toNat bs.toNat) (run := run) rfl (by omega)
    refine ⟨fun hover => ?_, fun hfits htype hover => ?_⟩
    · exact exec_lzxDecompress_of_frame_raise hs hopen hfs hbs fun k =>
        (hloop k).trans (Proc.bind_of_error (hstep.trans (Proc.bind_of_error (startRun_of_lt hover))))
    · have hbytes := runNext_uncompBytes_overrun (s := (frameBegun s fs.toNat bs.toNat).atRun run)
        (show s.byteOff + bs.toNat < s.byteOff + run by omega)
      have hstart := startRun_of_le (s := frameBegun s fs.toNat bs.toNat) hfits
      have hother : ¬(s.blockType = 1 ∨ s.blockType = 2) := by rw [htype]; decide
      rw [show (frameBegun s _ _).blockType = s.blockType from rfl, if_neg hother] at hstep
      exact exec_lzxDecompress_of_frame_raise hs hopen hfs hbs fun k =>
        (hloop k).trans (Proc.bind_of_error (hstep.trans ((Proc.bind_of_ok hstart).trans hbytes)))

end Sys2Proof.Machine

namespace Sys2Proof.Machine

open Sys2Proof.Safety

/-! ## A frame that is one run -/

section
variable {s h t : State} {fs bs : U32} {n p : Nat} {out : List Byte}

/-- The cells of a frame that lies in the window from cell `p` on. -/
theorem frameCells_of_pos (hpos : 0 < n) (hfits : p + n ≤ 65536) :
    frameCells (p + n) n = (List.range n).map (p + ·) := by
  simp only [frameCells, List.bind_eq_flatMap, List.pure_def, ← List.map_eq_flatMap, List.map_map]
  refine List.map_congr_left fun i hi => ?_
  have hi := List.mem_range.1 hi
  simp only [windowSize, Function.comp_apply, if_neg (show ¬p + n = 0 by omega)]
  omega

/-- The output of a frame is the cells it has filled (44_lzx_decode.md R164). -/
theorem frameOutput_of_cells (hpos : 0 < out.length) (hfits : p + out.length ≤ 65536)
    (hposn : t.windowPosn.toNat = p + out.length)
    (hcells : ∀ i (hi : i < out.length), t.windowByte (p + i) = some out[i]) :
    frameOutput out.length t = .ok out t := by
  rw [frameOutput, Proc.bind_get, hposn, frameCells_of_pos hpos hfits]
  exact readWindow_ok (List.ext_getElem (by simp) fun i _ hi => by
    simpa using hcells i (by simpa using hi))

/-- The way to a frame boundary writes the cursors, by what they are (41_buffer.md R92). -/
theorem aligned_eq_withCursor (t : State) :
    aligned t = t.withCursor (if t.bitOff = 0 then t.byteOff else t.byteOff + 2) 0 := by
  unfold aligned
  split
  next h =>
    rw [← h]
    exact t.withCursor_self.symm
  · rfl

theorem aligned_of_boundary (hboundary : t.bitOff = 0) : aligned t = t :=
  if_pos hboundary

theorem aligned_windowPosn (t : State) : (aligned t).windowPosn = t.windowPosn := by
  rw [aligned_eq_withCursor]
  rfl

theorem aligned_windowByte (t : State) (i : Nat) : (aligned t).windowByte i = t.windowByte i := by
  rw [aligned_eq_withCursor]
  rfl

theorem runBegun_posn (s : State) (n : Nat) : (runBegun s n).windowPosn.toNat = s.windowPosn.toNat % 65536 :=
  State.atRun_posn s n

/-- The whole frame is taken off the block as one run (43_lzx_blocks.md R142). -/
theorem atRun_eq_runBegun (htogo : s.tmp.togo = n) : s.atRun n = runBegun s n := by
  rw [State.atRun, htogo, Nat.sub_self]
  rfl

theorem runStep_whole (htogo : s.tmp.togo = n) (hpos : 0 < n) (hle : n ≤ s.blockRemaining.toNat)
    (hfits : s.windowPosn.toNat % 65536 + n ≤ 65536) :
    runStep s = (if s.blockType = 1 ∨ s.blockType = 2 then compressedRun n else runNext .uncompBytes : Proc Unit)
      (runBegun s n) := by
  rw [runStep_of_pos (by rw [htogo, Nat.min_eq_right hle]) hpos, Proc.bind_of_ok (startRun_of_le hfits),
    atRun_eq_runBegun htogo]

/-- The state in which the run of a frame starts: where the frame begins, or after the block header that comes first. -/
def AtBlock (s h : State) : Prop :=
  if s.blockRemaining = 0 then readBlockHeader s = .ok () h else h = s

/-- A block with a byte left goes on. -/
theorem atBlock_self (hpos : 0 < n) (hle : n ≤ s.blockRemaining.toNat) : AtBlock s s := by
  have hblock : s.blockRemaining ≠ 0 := by
    rintro h0
    rw [h0] at hle
    exact absurd hle (Nat.not_le.2 hpos)
  rw [AtBlock, if_neg hblock]

theorem togo_of_atBlock (hblock : AtBlock s h) : h.tmp.togo = s.tmp.togo := by
  unfold AtBlock at hblock
  split at hblock
  · exact (Keeps.ok keepsOwed_readBlockHeader trivial hblock).2.togo
  · rw [hblock]

theorem faulted_of_atBlock (hblock : AtBlock s h) (hs : s.faulted = false) : h.faulted = false := by
  unfold AtBlock at hblock
  split at hblock
  · exact framed_readBlockHeader.faulted hblock hs
  · rw [hblock, hs]

/-- A frame that one run completes. -/
theorem frameLoop_of_run {k : Nat} (htogo : 0 < s.tmp.togo) (hblock : AtBlock s h) (hrun : runStep h = .ok () t)
    (hdone : t.tmp.togo = 0) : frameLoop (k + 1) s = .ok () t := by
  have hrest : (runStep >>= fun _ => frameLoop k) h = .ok () t :=
    (Proc.bind_of_ok hrun).trans (frameLoop_done hdone)
  unfold AtBlock at hblock
  split at hblock
  next h0 => exact (frameLoop_of_header htogo h0).trans ((Proc.bind_of_ok hblock).trans hrest)
  next h0 =>
    subst hblock
    exact (frameLoop_of_block htogo h0).trans hrest

/-- LZX_DECOMPRESS of a frame that is one run: if the run fills its cells, the command answers them (43_lzx_blocks.md
R139, R142; 44_lzx_decode.md R164). -/
theorem exec_lzxDecompress_of_run (hs : s.faulted = false) (hopen : s.headerRead = true) (hpos : 0 < fs.toNat)
    (hbs : bs.toNat ≤ 65536) (hblock : AtBlock (frameBegun s fs.toNat bs.toNat) h)
    (hle : fs.toNat ≤ h.blockRemaining.toNat) (hfits : h.windowPosn.toNat % 65536 + fs.toNat ≤ 65536)
    (hrun : (if h.blockType = 1 ∨ h.blockType = 2 then compressedRun fs.toNat else runNext .uncompBytes : Proc Unit)
      (runBegun h fs.toNat) = .ok () t)
    (hposn : t.windowPosn.toNat = h.windowPosn.toNat % 65536 + fs.toNat)
    (hlen : out.length = fs.toNat)
    (hcells : ∀ i (hi : i < out.length), t.windowByte (h.windowPosn.toNat % 65536 + i) = some out[i])
    (halign : t.bitOff = 0 ∨ t.byteOff + 2 < 2 ^ 32) :
    exec (.lzxDecompress fs bs) s = .next (succeeded (.bytes out) (aligned t)) := by
  have htogo : h.tmp.togo = fs.toNat := togo_of_atBlock hblock
  have hdone : t.tmp.togo = 0 := by
    have hkeeps : KeepsOwed
        (if h.blockType = 1 ∨ h.blockType = 2 then compressedRun fs.toNat else runNext .uncompBytes) :=
      Keeps.ite (fun _ => keepsOwed_compressedRun _) fun _ => keepsOwed_runNext (by decide)
    exact (Keeps.ok hkeeps trivial hrun).2.togo
  have hstep : runStep h = .ok () t := (runStep_whole htogo hpos hle hfits).trans hrun
  refine exec_lzxDecompress_of_frame hs hopen (by omega) hbs
    (fun k => frameLoop_of_run (s := frameBegun s _ _) hpos hblock hstep hdone) halign ?_
  rw [← hlen] at hpos hfits hposn ⊢
  refine frameOutput_of_cells hpos hfits ?_ fun i hi => ?_
  · rw [aligned_windowPosn, hposn]
  · rw [aligned_windowByte, hcells i hi]

end

/-! ## O52: a frame of an Uncompressed block -/

section
variable {s : State} {fs bs : U32}

/-- The bytes of a run within the chunk and within STORE go to the window (44_lzx_decode.md R163). -/
theorem runNext_uncompBytes_of_le (hfits : s.windowPosn.toNat + s.tmp.run ≤ 65536)
    (hchunk : s.byteOff + s.tmp.run ≤ s.tmp.chunkStart + s.tmp.bs)
    (hin : s.byteOff + s.tmp.run ≤ s.storeLen.toNat) :
    ∃ w, writtenWindow s s.windowPosn.toNat (bytesAhead s s.tmp.run) w ∧
      runNext .uncompBytes s = .ok () { skipped s s.tmp.run with
        window := w
        windowPosn := BitVec.ofNat 17 (s.windowPosn.toNat + s.tmp.run)
        tmp := { s.tmp with run := 0 } } := by
  have hlen : (bytesAhead s s.tmp.run).length = s.tmp.run := by simp [bytesAhead]
  obtain ⟨w, hwrite, hwf, hget⟩ := writeWindow_ok (i := s.windowPosn.toNat) (bs := bytesAhead s s.tmp.run)
    (s := skipped s s.tmp.run) (by omega)
  have hread : readRaw s.tmp.run s = .ok (bytesAhead s s.tmp.run) (skipped s s.tmp.run) := by
    rw [readRaw_of_le hin, bytesAhead_eq, skipped_eq_withCursor]
  refine ⟨w, ⟨hwf, hget⟩, ?_⟩
  rw [runNext_of_fetched (u := s) (i := .uncompBytes) rfl]
  change doUncompBytes s = _
  rw [doUncompBytes, Proc.bind_get, if_neg (by omega), Proc.bind_of_ok hread, Proc.bind_of_ok hwrite]
  rfl

/-- What was written stands in its cells. -/
theorem windowByte_of_written {i j : Nat} {bytes : List Byte} {t : State} (hw : writtenWindow s i bytes t.window)
    (hj : j < bytes.length) : t.windowByte (i + j) = some bytes[j] := by
  obtain ⟨-, hget⟩ := hw
  rw [State.windowByte, hget, if_pos (by omega), Nat.add_sub_cancel_left, List.getElem?_eq_getElem hj]

/-- A frame of 0 bytes only aligns. -/
theorem exec_lzxDecompress_empty (hs : s.faulted = false) (hopen : s.headerRead = true) (hbs : bs.toNat ≤ 65536)
    (halign : s.bitOff = 0 ∨ s.byteOff + 2 < 2 ^ 32) :
    exec (.lzxDecompress 0 bs) s = .next (succeeded (.bytes []) (aligned s)) := by
  have hframe := exec_lzxDecompress_of_frame (fs := 0) (t := frameBegun s 0 bs.toNat) (out := []) hs hopen
    (Nat.zero_le _) hbs (fun k => frameLoop_done rfl) halign rfl
  rw [hframe, aligned_eq_withCursor, aligned_eq_withCursor]
  rfl

end

/-- Settles O52: the frame is one run of raw bytes; a frame of 0 bytes has no run. -/
theorem decompressCopiesUncompressedFrame : Obligations.DecompressCopiesUncompressedFrame := by
  intro s fs bs hs hopen hfs hbs
  refine ⟨?_, fun hpos htype hle hboundary hchunk hin hfits => ?_⟩
  · rintro rfl halign
    exact exec_lzxDecompress_empty hs hopen hbs halign
  · have hlen : (bytesAhead s fs.toNat).length = fs.toNat := by simp [bytesAhead]
    have hposn := runBegun_posn (frameBegun s fs.toNat bs.toNat) fs.toNat
    obtain ⟨w, hw, hrun⟩ := runNext_uncompBytes_of_le (s := runBegun (frameBegun s fs.toNat bs.toNat) fs.toNat)
      (by rw [hposn]; exact hfits) (show s.byteOff + fs.toNat ≤ s.byteOff + bs.toNat by omega) hin
    rw [hposn] at hw hrun
    have hother : ¬((frameBegun s fs.toNat bs.toNat).blockType = 1 ∨ (frameBegun s fs.toNat bs.toNat).blockType = 2) := by
      rw [show (frameBegun s fs.toNat bs.toNat).blockType = 3 from htype]
      decide
    have hframe := exec_lzxDecompress_of_run (h := frameBegun s fs.toNat bs.toNat) hs hopen hpos hbs
      (atBlock_self hpos hle) hle hfits ((congrFun (if_neg hother) _).trans hrun)
      ((BitVec.toNat_ofNat _ _).trans (Nat.mod_eq_of_lt (Nat.lt_of_le_of_lt hfits (by decide)))) hlen
      (fun i hi => windowByte_of_written hw hi) (.inl hboundary)
    rw [aligned_of_boundary] at hframe
    · exact ⟨w, hw, hframe⟩
    · exact hboundary

end Sys2Proof.Machine

namespace Sys2Proof.Machine

open Sys2Proof.Safety

/-! ## The window fills with the run -/

section
variable {s t u : State} {m n : Nat}

/-- `n` bytes of the run went to the cells at the window position, and no cell that was written was lost
(44_lzx_decode.md R150). -/
structure Filled (s : State) (n : Nat) (t : State) : Prop where
  posn : t.windowPosn.toNat = s.windowPosn.toNat + n
  run : s.tmp.run = t.tmp.run + n
  written : ∀ x, s.windowPosn.toNat ≤ x → x < s.windowPosn.toNat + n → t.windowByte x ≠ none
  kept : ∀ x, s.windowByte x ≠ none → t.windowByte x ≠ none

/-- What leaves the window and the run fills nothing. -/
theorem Filled.of_same (hwindow : t.window = s.window) (hposn : t.windowPosn = s.windowPosn)
    (hrun : t.tmp.run = s.tmp.run) : Filled s 0 t where
  posn := by rw [hposn, Nat.add_zero]
  run := hrun.symm
  written x h1 h2 := absurd h2 (Nat.not_lt.2 h1)
  kept x hx := by rwa [State.windowByte, hwindow]

theorem Filled.trans (h : Filled s m t) (h' : Filled t n u) : Filled s (m + n) u where
  posn := by rw [h'.posn, h.posn, Nat.add_assoc]
  run := by rw [h.run, h'.run]; omega
  written x h1 h2 := by
    have hposn := h.posn
    by_cases hx : x < s.windowPosn.toNat + m
    · exact h'.kept x (h.written x h1 hx)
    · exact h'.written x (by omega) (by omega)
  kept x hx := h'.kept x (h.kept x hx)

theorem winWrite_eq_ok {i : Nat} {v : Byte} :
    winWrite i v s = .ok () t ↔ i < 65536 ∧ t = { s with window := Memory.put s.window i v } := by
  rcases Nat.lt_or_ge i 65536 with h | h
  · rw [winWrite_of_lt v h]
    simp [h, eq_comm]
  · rw [winWrite_of_le v h]
    simp [Nat.not_lt.2 h]

theorem winRead_stays {i : Nat} {b : Byte} (h : winRead i s = .ok b t) : t = s := by
  unfold winRead at h
  split at h <;> cases h
  rfl

theorem checkOffset_stays (h : checkOffset s = .ok () t) : t = s := by
  unfold checkOffset at h
  split at h <;> cases h
  rfl

theorem checkLength_eq_ok (h : checkLength s = .ok () t) : t = s ∧ s.tmp.matchLen ≤ s.tmp.run := by
  unfold checkLength at h
  split at h <;> cases h
  next hle => exact ⟨rfl, Nat.not_lt.1 hle⟩

/-- A byte written to a cell stands there, and no cell is lost. -/
theorem get_put_ne_none {w : Memory} {i x : Nat} {v : Byte} (h : x = i ∨ Memory.get w x ≠ none) :
    Memory.get (Memory.put w i v) x ≠ none := by
  rw [Memory.get_put]
  split
  · simp
  · next hne => exact h.resolve_left hne

/-- A literal fills one cell (44_lzx_decode.md R152). -/
theorem filled_doLit {c : Byte} (h : doLit c s = .ok () t) : Filled s 1 t := by
  rw [doLit, Proc.bind_get] at h
  split at h
  · cases h
  next hrun =>
    obtain ⟨_, v, hwrite, h⟩ := Proc.bind_eq_ok.1 h
    obtain ⟨hlt, rfl⟩ := winWrite_eq_ok.1 hwrite
    cases h
    refine ⟨?_, (Nat.sub_add_cancel (Nat.pos_of_ne_zero hrun)).symm, fun x h1 h2 => ?_, fun x hx => ?_⟩
    · exact (BitVec.toNat_ofNat _ _).trans (Nat.mod_eq_of_lt (show s.windowPosn.toNat + 1 < 2 ^ 17 by omega))
    · exact get_put_ne_none (.inl (by omega))
    · exact get_put_ne_none (.inr hx)

/-- A copy that ends well fills its cells, and loses none (44_lzx_decode.md R162). -/
theorem copyLoop_eq_ok {off i : Nat} {s : State} (h : copyLoop off n i s = .ok () t) :
    ∃ w, t = { s with window := w } ∧ (∀ x, i ≤ x → x < i + n → Memory.get w x ≠ none) ∧
      ∀ x, s.windowByte x ≠ none → Memory.get w x ≠ none := by
  induction n generalizing i s with
  | zero =>
    cases h
    exact ⟨_, rfl, fun x h1 h2 => absurd h2 (Nat.not_lt.2 h1), fun x hx => hx⟩
  | succ n ih =>
    rw [copyLoop] at h
    obtain ⟨b, v, hread, hrest⟩ := Proc.bind_eq_ok.1 h
    obtain ⟨_, v', hwrite, hcopy⟩ := Proc.bind_eq_ok.1 hrest
    obtain ⟨-, rfl⟩ := winWrite_eq_ok.1 hwrite
    rw [winRead_stays hread] at hcopy
    obtain ⟨w, rfl, hnew, hkept⟩ := ih hcopy
    refine ⟨w, rfl, fun x h1 h2 => ?_, fun x hx => hkept x (get_put_ne_none (.inr hx))⟩
    rcases Nat.eq_or_lt_of_le h1 with rfl | h1
    · exact hkept _ (get_put_ne_none (.inl rfl))
    · exact hnew x h1 (by omega)

/-- A match that ends well fills as many cells as it is long (44_lzx_decode.md R150). -/
theorem filled_finishMatch (h : finishMatch s = .ok () t) : Filled s s.tmp.matchLen t := by
  obtain ⟨_, a, hoffset, hrest⟩ := Proc.bind_eq_ok.1 h
  rw [checkOffset_stays hoffset] at hrest
  obtain ⟨_, b, hlength, hmatch⟩ := Proc.bind_eq_ok.1 hrest
  obtain ⟨rfl, hlen⟩ := checkLength_eq_ok hlength
  rw [copyMatch, Proc.bind_get] at hmatch
  obtain ⟨_, v, hcopy, hend⟩ := Proc.bind_eq_ok.1 hmatch
  have hfits : b.windowPosn.toNat + b.tmp.matchLen < 2 ^ 17 := by
    have hposn := b.windowPosn.isLt
    rcases copyLoop_end hcopy with h0 | hle <;> omega
  obtain ⟨w, rfl, hnew, hkept⟩ := copyLoop_eq_ok hcopy
  cases hend
  exact ⟨(BitVec.toNat_ofNat _ _).trans (Nat.mod_eq_of_lt hfits), (Nat.sub_add_cancel hlen).symm, hnew, hkept⟩

/-- A main-tree element that runs well takes at least one byte off the run and fills as many cells (44_lzx_decode.md
R150). -/
theorem filled_of_elementRun {i : Instr} (hs : s.faulted = false) (h : ElementRun .mainItem s i t) :
    ∃ n, 0 < n ∧ Filled s n t := by
  obtain ⟨u, hfetch, hrun⟩ := (elementRun_iff hs).1 h
  have hfetched : Filled s 0 u := by
    obtain ⟨v, rfl⟩ := fetched_of_fetchElement hfetch
    exact .of_same rfl rfl rfl
  rcases placeHolds_of_elementRun h with ⟨c, rfl⟩ | ⟨len, src, hmatch⟩
  · exact ⟨_, Nat.zero_lt_one, hfetched.trans (filled_doLit hrun)⟩
  · obtain ⟨hlen, hfinish⟩ := runElement_of_matchForm hmatch u
    have htmp := cacheAfter_tmp u len src
    have hcached : Filled u 0 (cacheAfter u len src) :=
      .of_same (cacheAfter_window u len src) (cacheAfter_windowPosn u len src) (by rw [htmp])
    have hcopied : Filled (cacheAfter u len src) len t := by
      have hfilled := filled_finishMatch (hfinish.symm.trans hrun)
      rwa [htmp] at hfilled
    exact ⟨_, by omega, hfetched.trans (hcached.trans hcopied)⟩

/-- Elements that run one after the other are what CompressedRun does, and fill the run's cells (44_lzx_decode.md
R150). -/
theorem compressedRun_of_mainItemsRun (h : MainItemsRun s t) (hs : s.faulted = false) (hn : s.tmp.run ≤ n) :
    compressedRun n s = .ok () t ∧ Filled s s.tmp.run t := by
  induction h generalizing n with
  | done s hrun =>
    refine ⟨?_, by rw [hrun]; exact .of_same rfl rfl rfl⟩
    cases n with
    | zero => exact if_neg (by omega)
    | succ n => exact (Proc.bind_get ..).trans (by rw [if_neg (by omega)]; rfl)
  | item s u t i hpos hitem _ ih =>
    obtain ⟨m, hm, hfilled⟩ := filled_of_elementRun hs hitem
    have hrun := hfilled.run
    obtain ⟨n, rfl⟩ : ∃ k, n = k + 1 := ⟨n - 1, by omega⟩
    obtain ⟨hrest, hfills⟩ := ih (n := n) (faulted_of_elementRun hitem) (by omega)
    refine ⟨?_, by rw [hrun, Nat.add_comm]; exact hfilled.trans hfills⟩
    rw [compressedRun, Proc.bind_get, if_pos hpos, Proc.bind_of_ok (runNext_of_elementRun hs hitem), hrest]

/-- The bytes that stand in written cells. -/
theorem exists_bytes_of_written {p : Nat} (h : ∀ x, p ≤ x → x < p + n → t.windowByte x ≠ none) :
    ∃ out : List Byte, out.length = n ∧ ∀ i (hi : i < out.length), t.windowByte (p + i) = some out[i] := by
  have hsome (i : Fin n) : (t.windowByte (p + i)).isSome :=
    Option.isSome_iff_ne_none.2 (h _ (Nat.le_add_right _ _) (by omega))
  refine ⟨List.ofFn fun i => (t.windowByte (p + i)).get (hsome i), List.length_ofFn, fun i hi => ?_⟩
  rw [List.getElem_ofFn, Option.some_get]

end

/-- Settles O60: the elements use up the run by CompressedRun, and the cells they fill are the frame. -/
theorem decompressRunsItsElements : Obligations.DecompressRunsItsElements := by
  intro s h t fs bs hs hopen hpos _ hbs htype hblock hle hfits hitems halign
  have hh : h.faulted = false := faulted_of_atBlock (s := frameBegun s fs.toNat bs.toNat) hblock hs
  obtain ⟨hrun, hfilled⟩ := compressedRun_of_mainItemsRun hitems hh (Nat.le_refl _)
  have hposn := hfilled.posn
  have hcells := hfilled.written
  rw [runBegun_posn] at hposn hcells
  obtain ⟨out, hlen, hout⟩ := exists_bytes_of_written hcells
  exact ⟨out, hlen, hout, exec_lzxDecompress_of_run hs hopen hpos hbs hblock hle hfits
    ((congrFun (if_pos htype) _).trans hrun) hposn hlen hout halign⟩

end Sys2Proof.Machine

namespace Sys2Proof.Machine

open Sys2Proof.Safety

/-! ## A run of literals -/

section
variable {s t : State} {c : Byte} {fs : List Field} {cs lits : List Byte} {n : Nat} {w : Memory}

/-- A literal whose code comes next is fetched, and the code is passed (30_encoding.md R78). -/
theorem fetch_literal (h : fieldsAhead s (.sym .main c.toNat :: fs)) :
    fetchElement .mainItem s = .ok (.lit c) (passed s (.sym .main c.toNat)) := by
  have hc := c.isLt
  rw [fetchElement, fetchMainItem, Proc.bind_of_ok (decodeTree_of_ahead h), Proc.bind_get, mainPlan_literal hc]
  refine (decoded_of_ok (decode_mainItem_eq_ok.2 ⟨_, [], [], rfl, by omega, ?_, ?_⟩) _)
  · rw [mainPlan_literal hc]
    rfl
  · simp [mainInstr_literal hc]

/-- One literal to the window (44_lzx_decode.md R152). -/
def literalPut (s : State) (c : Byte) : State :=
  { s with
    window := Memory.put s.window s.windowPosn.toNat c
    windowPosn := BitVec.ofNat 17 (s.windowPosn.toNat + 1)
    tmp := { s.tmp with run := s.tmp.run - 1 } }

theorem literalPut_posn (hposn : s.windowPosn.toNat < 65536) :
    (literalPut s c).windowPosn.toNat = s.windowPosn.toNat + 1 :=
  (BitVec.toNat_ofNat _ _).trans (Nat.mod_eq_of_lt (show s.windowPosn.toNat + 1 < 2 ^ 17 by omega))

theorem fieldsAhead_literalPut : fieldsAhead (literalPut s c) fs ↔ fieldsAhead s fs :=
  Iff.rfl

theorem doLit_ok (hrun : 0 < s.tmp.run) (hposn : s.windowPosn.toNat < 65536) :
    doLit c s = .ok () (literalPut s c) := by
  rw [doLit, Proc.bind_get, if_neg (Nat.ne_of_gt hrun), Proc.bind_of_ok (winWrite_of_lt c hposn)]
  rfl

theorem writtenWindow_nil {i : Nat} : writtenWindow s i [] s.window :=
  ⟨id, fun _ => (if_neg (by simp)).symm⟩

/-- A byte, and then the bytes after it. -/
theorem writtenWindow_cons {i : Nat} (hput : t.window = Memory.put s.window i c) (h : writtenWindow t (i + 1) cs w) :
    writtenWindow s i (c :: cs) w := by
  obtain ⟨hwf, hget⟩ := h
  rw [hput] at hwf
  refine ⟨fun hs => hwf (Memory.wf_put hs _ _), fun x => ?_⟩
  rw [hget, State.windowByte, hput, Memory.get_put, List.length_cons]
  rcases Nat.lt_trichotomy x i with hx | rfl | hx
  · rw [if_neg (by omega), if_neg (by omega), if_neg (by omega)]
    rfl
  · rw [if_neg (by omega), if_pos rfl, if_pos (by omega), Nat.sub_self]
    rfl
  · obtain ⟨k, rfl⟩ : ∃ k, x = i + 1 + k := ⟨x - (i + 1), by omega⟩
    by_cases hk : k < cs.length
    · rw [if_pos (by omega), if_pos (by omega), show i + 1 + k - i = k + 1 by omega, Nat.add_sub_cancel_left]
      rfl
    · rw [if_neg (by omega), if_neg (by omega), if_neg (by omega)]
      rfl

/-- The codes of literals. -/
abbrev literalFields (cs : List Byte) : List Field :=
  cs.map fun c => .sym .main c.toNat

/-- The end of a run of the literals `cs` that leave window `w`: their codes are passed. -/
def literalsRun (s : State) (cs : List Byte) (w : Memory) : State :=
  { passedAll s (literalFields cs) with
    window := w
    windowPosn := BitVec.ofNat 17 (s.windowPosn.toNat + cs.length)
    tmp := { s.tmp with run := 0 } }

theorem literalsRun_nil (hrun : s.tmp.run = 0) : literalsRun s [] s.window = s := by
  have htmp : { s.tmp with run := 0 } = s.tmp := congrArg (fun r => { s.tmp with run := r }) hrun.symm
  have hposn : BitVec.ofNat 17 s.windowPosn.toNat = s.windowPosn := by simp
  have hcodes : passedAll s (literalFields []) = s := passedAll_nil
  rw [literalsRun, htmp, List.length_nil, Nat.add_zero, hposn, hcodes]

/-- After the first literal, the others run as they do from there. -/
theorem literalsRun_cons (hposn : s.windowPosn.toNat < 65536) (h : fieldsAhead s (literalFields (c :: cs))) :
    literalsRun (literalPut (passed s (.sym .main c.toNat)) c) cs w = literalsRun s (c :: cs) w := by
  have hcodes : passedAll (passed s (.sym .main c.toNat)) (literalFields cs) = passedAll s (literalFields (c :: cs)) :=
    passedAll_passed h
  have hnext : (literalPut (passed s (.sym .main c.toNat)) c).windowPosn.toNat = s.windowPosn.toNat + 1 :=
    literalPut_posn hposn
  rw [literalsRun, literalsRun, hnext, ← hcodes, List.length_cons, Nat.add_right_comm, Nat.add_assoc]
  rfl

/-- After codes that come next, the byte cursor can still pass a frame. -/
theorem byteOff_passedAll_lt (h : fieldsAhead s fs) : (passedAll s fs).byteOff + 2 < 2 ^ 32 := by
  obtain ⟨-, hframes, -⟩ := h
  have hstore := s.storeLen.isLt
  have hbyte := (advanced_cursors (framesPresent_mono hframes (Nat.le_add_right _ 32))).1
  rw [passedAll, hbyte]
  unfold framesPresent at hframes
  omega

/-- The elements that stand at the cursors are the literals whose codes come next (44_lzx_decode.md R150, R152). -/
theorem mainItemsRun_literals (hs : s.faulted = false) (hrun : s.tmp.run = cs.length)
    (hfits : s.windowPosn.toNat + cs.length ≤ 65536) (h : fieldsAhead s (literalFields cs)) :
    ∃ w, writtenWindow s s.windowPosn.toNat cs w ∧ MainItemsRun s (literalsRun s cs w) := by
  induction cs generalizing s with
  | nil =>
    refine ⟨s.window, writtenWindow_nil, ?_⟩
    rw [literalsRun_nil hrun]
    exact .done s hrun
  | cons c cs ih =>
    rw [List.length_cons] at hrun hfits
    have hlt : s.windowPosn.toNat < 65536 := by omega
    have hpos : 0 < s.tmp.run := by omega
    have hitem : ElementRun .mainItem s (.lit c) (literalPut (passed s (.sym .main c.toNat)) c) :=
      (elementRun_iff hs).2 ⟨_, fetch_literal h, doLit_ok hpos hlt⟩
    have hposn : (literalPut (passed s (.sym .main c.toNat)) c).windowPosn.toNat = s.windowPosn.toNat + 1 :=
      literalPut_posn hlt
    obtain ⟨w, hw, hitems⟩ := ih (s := literalPut (passed s (.sym .main c.toNat)) c) (faulted_of_elementRun hitem)
      (show s.tmp.run - 1 = cs.length by omega) (by omega)
      (fieldsAhead_literalPut.2 (fieldsAhead_passed h))
    rw [hposn] at hw
    rw [literalsRun_cons hlt h] at hitems
    exact ⟨w, writtenWindow_cons rfl hw, .item _ _ _ _ hpos hitem hitems⟩

end

/-- Settles O53: the literals are the elements of the run, and their bytes are the cells of the frame. -/
theorem decompressDecodesLiterals : Obligations.DecompressDecodesLiterals := by
  intro s fs bs lits hs hopen htype hlits hfs _ hbs hle hfits hahead
  have hpos : 0 < fs.toNat := hfs ▸ hlits
  have hbegun := runBegun_posn (frameBegun s fs.toNat bs.toNat) fs.toNat
  obtain ⟨w, hw, hitems⟩ := mainItemsRun_literals (s := runBegun (frameBegun s fs.toNat bs.toNat) fs.toNat) (cs := lits)
    hs hfs (by rw [hbegun, ← hfs]; exact hfits) hahead
  rw [hbegun] at hw
  obtain ⟨hrun, hfilled⟩ := compressedRun_of_mainItemsRun hitems hs (Nat.le_refl _)
  have hposn := hfilled.posn
  rw [hbegun] at hposn
  refine ⟨w, hw, (exec_lzxDecompress_of_run (h := frameBegun s fs.toNat bs.toNat) hs hopen hpos hbs
    (atBlock_self hpos hle) hle hfits ((congrFun (if_pos htype) _).trans hrun) hposn hfs.symm
    (fun i hi => windowByte_of_written hw hi) (.inr (byteOff_passedAll_lt hahead))).trans ?_⟩
  rw [aligned_eq_withCursor, aligned_eq_withCursor, literalsRun, hbegun, ← hfs]
  rfl

end Sys2Proof.Machine

/-!
PROOFS of 44_lzx_decode.md: literals and the match fields alone (O47); how every match ends, said once for the state
that its length, offset and cache make (O48, O49, O50); the run of an Uncompressed block (O51); the frame as a slice of
the window (O54).
-/

namespace Sys2Proof.Machine

open Sys2Proof.Safety

/-! ## Literals and the fields of a match -/

section
variable {s : State}

theorem ofNat_windowPosn_succ (s : State) : BitVec.ofNat 17 (s.windowPosn.toNat + 1) = s.windowPosn + 1 := by
  rw [BitVec.ofNat_add, BitVec.ofNat_toNat, BitVec.setWidth_eq]
  rfl

/-- A literal in its run writes one cell, and the window position moves past it (44_lzx_decode.md R152). -/
theorem exec_lit {c : Byte} (hs : s.faulted = false) (hrun : 0 < s.tmp.run) (hposn : s.windowPosn.toNat < 65536) :
    exec (.lit c) s = .next (literalPut s c) :=
  element_of_ok hs (doLit_ok hrun hposn)

theorem writtenWindow_literalPut (s : State) (c : Byte) :
    writtenWindow s s.windowPosn.toNat [c] (literalPut s c).window :=
  writtenWindow_cons (t := literalPut s c) rfl writtenWindow_nil

/-- The footer counts from the longest length of a header, 7 + 2 (44_lzx_decode.md R153). -/
theorem doLenFoot_run (f : BitVec 8) (s : State) :
    doLenFoot f s = .ok () { s with tmp := { s.tmp with matchLen := 9 + f.toNat } } := by
  rw [doLenFoot, update_run, State.withTmp, Nat.add_right_comm]

end

/-- Settles O47: the literal by its window cell, the two fields by the temporaries they write. -/
theorem literalsAndMatchFields : Obligations.LiteralsAndMatchFields := by
  intro s hs
  refine ⟨fun c hrun hposn => ⟨_, writtenWindow_literalPut s c, ?_⟩, fun f => ?_, fun a => ?_⟩
  · rw [exec_lit hs hrun hposn, literalPut, ofNat_windowPosn_succ]
  · exact element_of_ok hs (doLenFoot_run f s)
  · exact element_of_ok (p := doAlignSym a) hs rfl

end Sys2Proof.Machine

namespace Sys2Proof.Machine

open Sys2Proof.Safety

/-! ## The end of a match, from its length and offset -/

section
variable {s : State} {i : Instr} {len n off : Nat} {src : OffsetSource} {w : Memory}

/-- The cache does not touch the window. -/
theorem cacheAfter_windowByte (s : State) (len : Nat) (src : OffsetSource) (x : Nat) :
    (cacheAfter s len src).windowByte x = s.windowByte x := by
  rw [State.windowByte, cacheAfter_window, State.windowByte]

theorem cacheAfter_opcode (s : State) (len : Nat) (src : OffsetSource) :
    (cacheAfter s len src).tmp.opcode = s.tmp.opcode := by
  rw [cacheAfter_tmp]

/-- What makes a copy ready is not touched by the cache. -/
theorem copyReady_cacheAfter (h : CopyReady s n off) : CopyReady (cacheAfter s len src) n off where
  offset := h.offset
  fits := by simpa only [cacheAfter_tmp, cacheAfter_windowPosn] using h.fits
  sources := by simpa only [cacheAfter_windowPosn, cacheAfter_windowByte] using h.sources

theorem copiedWindow_cacheAfter : copiedWindow (cacheAfter s len src) n off w ↔ copiedWindow s n off w := by
  simp only [copiedWindow, cacheAfter_window, cacheAfter_windowPosn, cacheAfter_windowByte]

/-- A match is an element of the bitstream. -/
theorem isElement_of_matchForm (h : matchForm i = some (len, src)) : i.IsElement := by
  cases i with
  | seekAbs | seekRel | readBytes | peekBytes | getPos | regRead | arrayRead | readU8 | readI8 | readU16LE | readU16BE
  | readI16LE | readI16BE | readU32LE | readU32BE | readI32LE | readI32BE | readF32LE | readF32BE | readF64LE
  | readF64BE | read7Bit | readString | readLzxInt16 | readBits | peekBits | setBitPos | align | hufBuild | hufDecode
  | lzxReset | lzxDecompress | frmRun | load | reset | illegal => cases h
  | matchAS8 _ _ v _ | matchAS9 _ _ v _ =>
    cases v
    all_goals exact ⟨_, _, rfl⟩
  | _ => exact ⟨_, _, rfl⟩

/-- What a match does: its length and offset and the cache, then the end that all matches share (44_lzx_decode.md
R150). -/
theorem exec_of_matchForm (hs : s.faulted = false) (h : matchForm i = some (len, src)) :
    exec i s = element finishMatch (cacheAfter s len src) := by
  obtain ⟨fmt, fields, helement⟩ := isElement_of_matchForm h
  obtain ⟨-, hrun⟩ := runElement_of_matchForm h s
  rw [exec_element helement, element_congr hs ((cacheAfter_faulted s len src).trans hs) hrun]

/-- A match that can be copied is copied (44_lzx_decode.md R162). -/
theorem exec_match_of_copyReady (hs : s.faulted = false) (h : matchForm i = some (len, src))
    (hready : CopyReady s len (offsetOf s src)) :
    ∃ w, copiedWindow s len (offsetOf s src) w ∧ exec i s = .next (copied (cacheAfter s len src) len w) := by
  have hend := finishMatch_ok (s := cacheAfter s len src)
  simp only [cacheAfter_tmp, copiedWindow_cacheAfter] at hend
  obtain ⟨w, hw, hrun⟩ := hend (copyReady_cacheAfter hready)
  refine ⟨w, hw, ?_⟩
  rw [exec_of_matchForm hs h, element_of_ok ((cacheAfter_faulted s len src).trans hs) hrun]

/-- A fault at the end of a match is taken with the cache updated (44_lzx_decode.md R150, 60_exceptions.md R177). -/
theorem exec_match_of_raise {c : Cause} {t : State} (hs : s.faulted = false) (h : matchForm i = some (len, src))
    (hraise : finishMatch (cacheAfter s len src) = .error (.raise c) t) (hop : t.tmp.opcode = s.tmp.opcode) :
    exec i s = .next (faulting s.tmp.opcode c t) := by
  rw [exec_of_matchForm hs h, element_of_raise ((cacheAfter_faulted s len src).trans hs) hraise,
    faultEntry_eq_faulting, hop]

end

/-- Settles O48: the matches of a Verbatim block end as all matches do. -/
theorem verbatimMatchesCopy : Obligations.VerbatimMatchesCopy :=
  fun _ _ _ _ _ h _ hs hready => exec_match_of_copyReady hs h hready

/-- Settles O49: so do those of an Aligned block; the aligned symbol is in the offset that `matchForm` gives. -/
theorem alignedMatchesCopy : Obligations.AlignedMatchesCopy :=
  fun _ _ _ _ _ h _ hs hready => exec_match_of_copyReady hs h hready

/-- Settles O50: the two checks in their order, then the first source cell that is unwritten. -/
theorem matchFaults : Obligations.MatchFaults := by
  intro i len src s _ h hs off t
  have hop : t.tmp.opcode = s.tmp.opcode := cacheAfter_opcode s len src
  have hoffset := finishMatch_badOffset (s := t)
  have hlength := finishMatch_overrun (s := t)
  have hcopy := fun k => finishMatch_unwritten (s := t) (k := k)
  simp only [t, cacheAfter_tmp, cacheAfter_windowPosn, cacheAfter_windowByte, copiedWindow_cacheAfter]
    at hoffset hlength hcopy
  refine ⟨fun hbad => ?_, fun hpos hle hover => ?_, fun k hpos hle hlen hfits hk hko hwritten hnone => ?_⟩
  · exact exec_match_of_raise hs h (hoffset hbad) hop
  · exact exec_match_of_raise hs h (hlength ⟨hpos, hle⟩ hover) hop
  · obtain ⟨w, hw, hraise⟩ := hcopy k ⟨hpos, hle⟩ hlen hfits hk hko hwritten hnone
    refine ⟨w, hw, exec_match_of_raise hs h (t := { t with window := w }) ?_ hop⟩
    simpa only [t, cacheAfter_tmp, cacheAfter_windowPosn] using hraise

end Sys2Proof.Machine

namespace Sys2Proof.Machine

open Sys2Proof.Safety

/-! ## The run of an Uncompressed block -/

section
variable {s : State}

/-- UNCOMP.BYTES has no field to fetch. -/
theorem exec_uncompBytes (hs : s.faulted = false) : exec .uncompBytes s = element (runNext .uncompBytes) s :=
  (element_runNext_of_fetched (k := .uncompBytes) hs rfl).symm

/-- Bytes that are not in STORE: nothing is read and nothing written (44_lzx_decode.md R163, 41_buffer.md R94). -/
theorem runNext_uncompBytes_pastEnd (hchunk : s.byteOff + s.tmp.run ≤ s.tmp.chunkStart + s.tmp.bs)
    (hpast : s.storeLen.toNat < s.byteOff + s.tmp.run) :
    runNext .uncompBytes s = .error (.raise .readPastEnd) s := by
  rw [runNext_of_fetched (u := s) (i := .uncompBytes) rfl]
  change doUncompBytes s = _
  rw [doUncompBytes, Proc.bind_get, if_neg (Nat.not_lt.2 hchunk), Proc.bind_of_error (readRaw_of_lt hpast)]

end

/-- Settles O51, bound by bound. -/
theorem uncompressedRuns : Obligations.UncompressedRuns := by
  intro s hs hfits
  rw [exec_uncompBytes hs]
  split_ifs with hover hpast
  · exact element_of_raise hs (runNext_uncompBytes_overrun hover)
  · exact element_of_raise hs (runNext_uncompBytes_pastEnd (Nat.not_lt.1 hover) hpast)
  · obtain ⟨w, hw, hrun⟩ := runNext_uncompBytes_of_le hfits (Nat.not_lt.1 hover) (Nat.not_lt.1 hpast)
    exact ⟨w, hw, element_of_ok hs hrun⟩

/-! ## The frame as a slice of the window -/

section
variable {s t : State} {fs bs : U32} {n : Nat} {r : Result} {out : List Byte}

/-- The cells of a frame, counted from the position it ends at, where 0 stands for 65536 (44_lzx_decode.md R164). -/
theorem frameCells_eq (posn : Nat) (hn : n ≤ 65536) :
    frameCells posn n = (List.range n).map fun i => ((if posn = 0 then 65536 else posn) + 65536 - n + i) % 65536 := by
  simp only [frameCells, List.bind_eq_flatMap, List.pure_def, ← List.map_eq_flatMap, List.map_map]
  refine List.map_congr_left fun i _ => ?_
  simp only [windowSize, Function.comp_apply]
  split <;> omega

/-- The output of a frame is read off the window and leaves the state (44_lzx_decode.md R164). -/
theorem frameOutput_eq_ok (h : frameOutput n s = .ok out t) :
    t = s ∧ (frameCells s.windowPosn.toNat n).map s.windowByte = out.map some := by
  rw [frameOutput, Proc.bind_get] at h
  rcases readWindow_cases (frameCells s.windowPosn.toNat n) s with ⟨bytes, hread, hcells⟩ | hread
  · rw [hread] at h
    cases h
    exact ⟨rfl, hcells⟩
  · rw [hread] at h
    cases h

/-- The output of a frame byte by byte. -/
theorem windowByte_of_frameOutput (hn : n ≤ 65536) (h : frameOutput n s = .ok out t) :
    out.length = n ∧ ∀ i (hi : i < out.length), t.windowByte
      (((if t.windowPosn = 0 then 65536 else t.windowPosn.toNat) + 65536 - n + i) % 65536) = some out[i] := by
  obtain ⟨rfl, hcells⟩ := frameOutput_eq_ok h
  rw [frameCells_eq _ hn, List.map_map] at hcells
  have hlen : out.length = n := by simpa using (congrArg List.length hcells).symm
  have hzero : t.windowPosn.toNat = 0 ↔ t.windowPosn = 0 := BitVec.toNat_inj (y := 0)
  refine ⟨hlen, fun i hi => ?_⟩
  have hbyte := List.getElem_of_eq hcells (i := i) (by simpa [hlen] using hi)
  simpa only [List.getElem_map, List.getElem_range, Function.comp_apply, hzero] using hbyte

/-- Decompress() returns the output of the frame it has decoded, from the state it ends in (43_lzx_blocks.md R139). -/
theorem frameOutput_of_decompress {b : Nat} (h : decompress n b s = .ok out t) : ∃ u, frameOutput n u = .ok out t := by
  unfold decompress at h
  simp only [Proc.bind_eq_ok] at h
  obtain ⟨_, _, -, _, _, -, _, _, -, _, _, -, _, _, -, _, u, -, hout⟩ := h
  exact ⟨u, hout⟩

/-- LZX_DECOMPRESS returns bytes, within its operand bounds, and they are what Decompress() returns. -/
theorem doLzxDecompress_eq_ok (h : doLzxDecompress fs bs s = .ok r t) :
    fs.toNat ≤ 65536 ∧ ∃ out, r = .bytes out ∧ decompress fs.toNat bs.toNat s = .ok out t := by
  unfold doLzxDecompress at h
  split at h
  · cases h
  next hbounds =>
    obtain ⟨out, _, hrun, hret⟩ := Proc.bind_eq_ok.1 h
    cases hret
    exact ⟨Nat.not_lt.1 fun hlt => hbounds (.inl hlt), out, rfl, hrun⟩

/-- A command that answers `ok` has run its procedure to its end. -/
theorem command_eq_ok {op : BitVec 8} {p : Proc Result} (h : command op p s = .next t)
    (hr : t.response = some (.ok r)) : ∃ u, p (s.begin op) = .ok r u ∧ t = u.answer (.ok r) := by
  rcases command_eq_next h with ⟨-, rfl⟩ | ⟨-, _, u, hu, rfl⟩ | ⟨-, _, _, -, rfl⟩
  · cases hr
  · cases hr
    exact ⟨u, hu, rfl⟩
  · cases hr

end

/-- Settles O54: the answer is the frame output, whose cells end at the window position. -/
theorem decompressReturnsTheWindowSlice : Obligations.DecompressReturnsTheWindowSlice := by
  intro s t fs bs r _ h hr
  obtain ⟨u, hu, rfl⟩ := command_eq_ok (op := 0x51) (p := doLzxDecompress fs bs) h hr
  obtain ⟨hfs, out, rfl, hdecompress⟩ := doLzxDecompress_eq_ok hu
  obtain ⟨_, hout⟩ := frameOutput_of_decompress hdecompress
  obtain ⟨hlen, hcells⟩ := windowByte_of_frameOutput hfs hout
  exact ⟨out, rfl, hlen, hcells⟩

end Sys2Proof.Machine

/-!
PROOFS of 45_framer.md. What a chunk header leaves; FRM_RUN over the chunks of its container, from which its loop ends
(O56); then which causes the engine and the loop of FRM_RUN can raise, so that a length mismatch is found after the loop
alone (O57).
-/

namespace Sys2Proof.Machine

open Sys2Proof.Safety

/-! ## A chunk header -/

section
variable {s t u v : State} {i : Instr} {clen n : Nat} {out : List Byte}

/-- What a chunk header leaves (45_framer.md R166): FRM_OUT as it was, its own bytes counted, and sizes of 16 bits. -/
structure HeaderCounted (s t : State) : Prop where
  frmOut : t.frmOut = s.frmOut
  counted : ∃ n, 0 < n ∧ n ≤ 5 ∧ t.frmConsumed = BitVec.ofNat 33 (s.frmConsumed.toNat + n)
  frameSize : t.tmp.fs < 65536
  blockSize : t.tmp.bs < 65536

theorem headerCounted_of_elementRun (hs : s.faulted = false) (h : ElementRun .chunkHeader s i t) :
    HeaderCounted s t := by
  obtain ⟨u, hfetch, hrun⟩ := (elementRun_iff hs).1 h
  obtain ⟨v, rfl⟩ := fetched_of_fetchElement hfetch
  rcases placeHolds_of_elementRun h with ⟨fs, bs, rfl⟩ | ⟨bs, rfl⟩
  · cases hrun
    exact ⟨rfl, ⟨5, by decide, by decide, rfl⟩, fs.isLt, bs.isLt⟩
  · cases hrun
    exact ⟨rfl, ⟨2, by decide, by decide, rfl⟩, show defaultFrameSize < 65536 by decide, bs.isLt⟩

/-! ## The loop of FRM_RUN -/

/-- The state after a chunk of output `out` and `bs` bytes (45_framer.md R166). -/
def chunkCounted (u : State) (out : List Byte) (bs : Nat) : State :=
  { u with frmOut := u.frmOut ++ out, frmConsumed := BitVec.ofNat 33 (u.frmConsumed.toNat + bs) }

/-- A header that carries a size of 0 ends the loop (45_framer.md R166). -/
theorem chunkLoop_stop (hc : s.frmConsumed.toNat < clen) (hheader : runNext .chunkHeader s = .ok () t)
    (hzero : t.tmp.fs = 0 ∨ t.tmp.bs = 0) : chunkLoop clen (n + 1) s = .ok () t := by
  rw [chunkLoop, Proc.bind_get, if_pos hc, Proc.bind_of_ok hheader, Proc.bind_get]
  exact congrFun (if_pos hzero.symm) t

/-- A chunk, after which the loop goes on where the engine stopped (45_framer.md R166, R170). -/
theorem chunkLoop_chunk (hc : s.frmConsumed.toNat < clen) (hheader : runNext .chunkHeader s = .ok () t)
    (hfs : t.tmp.fs ≠ 0 ∧ t.tmp.fs ≤ frameBlockLimit) (hbs : t.tmp.bs ≠ 0 ∧ t.tmp.bs ≤ frameBlockLimit)
    (hrun : decompress t.tmp.fs t.tmp.bs t = .ok out u) :
    chunkLoop clen (n + 1) s = chunkLoop clen n (chunkCounted u out t.tmp.bs) := by
  obtain ⟨hfs, hfs'⟩ := hfs
  obtain ⟨hbs, hbs'⟩ := hbs
  rw [chunkLoop, Proc.bind_get, if_pos hc, Proc.bind_of_ok hheader, Proc.bind_get]
  simp only [if_neg (show ¬(t.tmp.bs = 0 ∨ t.tmp.fs = 0) by omega),
    if_neg (show ¬(frameBlockLimit < t.tmp.bs ∨ frameBlockLimit < t.tmp.fs) by omega)]
  rw [Proc.bind_of_ok hrun, Proc.bind_update]
  rfl

/-- A chunk moves FRM_CONSUMED on: FRM_CONSUMED holds it without wrapping (10_state.md R32). -/
theorem lt_consumed_chunkCounted {bs : Nat} (hs : s.frmConsumed.toNat < 2 ^ 32) (hheader : HeaderCounted s t)
    (hu : u.frmConsumed = t.frmConsumed) (hbs : bs < 65536) :
    s.frmConsumed.toNat < (chunkCounted u out bs).frmConsumed.toNat := by
  obtain ⟨n, hpos, hle, hn⟩ := hheader.counted
  change _ < (BitVec.ofNat 33 (u.frmConsumed.toNat + bs)).toNat
  rw [hu, hn]
  simp only [BitVec.toNat_ofNat]
  omega

/-- The loop runs the chunks of the container and appends their outputs to FRM_OUT (45_framer.md R166, R168). -/
theorem chunkLoop_of_chunksRun (h : ChunksRun clen s v out) (hclen : clen < 2 ^ 32) (hs : s.faulted = false)
    (hn : clen ≤ s.frmConsumed.toNat + n) : chunkLoop clen n s = .ok () v ∧ v.frmOut = s.frmOut ++ out := by
  induction h generalizing n with
  | done s hend => exact ⟨chunkLoop_done hend, (List.append_nil _).symm⟩
  | stop s t i hc hheader hzero =>
    obtain ⟨n, rfl⟩ := Nat.exists_eq_succ_of_ne_zero (show n ≠ 0 by omega)
    refine ⟨chunkLoop_stop hc (runNext_of_elementRun hs hheader) hzero, ?_⟩
    rw [List.append_nil, (headerCounted_of_elementRun hs hheader).frmOut]
  | chunk s t u v i out rest hc hheader hfs hbs hrun _ ih =>
    obtain ⟨n, rfl⟩ := Nat.exists_eq_succ_of_ne_zero (show n ≠ 0 by omega)
    have hcounted := headerCounted_of_elementRun hs hheader
    have hframer : SameFramer t u := (Keeps.ok (keepsFramer_decompress _ _) trivial hrun).2
    have hu : u.faulted = false := (framed_decompress _ _).faulted hrun (faulted_of_elementRun hheader)
    have hmoved : s.frmConsumed.toNat < (chunkCounted u out t.tmp.bs).frmConsumed.toNat :=
      lt_consumed_chunkCounted (by omega) hcounted hframer.frmConsumed hcounted.blockSize
    obtain ⟨hloop, hout⟩ := ih (n := n) hu (show clen ≤ (chunkCounted u out t.tmp.bs).frmConsumed.toNat + n by omega)
    constructor
    · rw [chunkLoop_chunk hc (runNext_of_elementRun hs hheader) ⟨hfs, Nat.le_of_lt hcounted.frameSize⟩
        ⟨hbs, Nat.le_of_lt hcounted.blockSize⟩ hrun]
      exact hloop
    · rw [hout, hframer.frmOut, hcounted.frmOut, List.append_assoc]

end

/-! ## O56: how FRM_RUN ends -/

section
variable {s t v : State} {clen dlen : U32} {out : List Byte}

/-- After the loop, the length of FRM_OUT decides the command (45_framer.md R169). -/
def lengthChecked (dlen : U32) (v : State) : State :=
  if v.frmOut.length = dlen.toNat then succeeded (.bytes v.frmOut) v else faulting 0x60 .outputLengthMismatch v

theorem doFrmRun_of_loop (h : chunkLoop clen.toNat clen.toNat (Safety.framerBegun s) = .ok () v) :
    doFrmRun clen dlen (s.begin 0x60) =
      if v.frmOut.length = dlen.toNat then .ok (.bytes v.frmOut) v else .error (.raise .outputLengthMismatch) v := by
  rw [doFrmRun, Proc.bind_update]
  refine (Proc.bind_of_ok h).trans ?_
  rw [Proc.bind_get]
  split <;> rfl

/-- The loop's fault is that of the command. -/
theorem doFrmRun_of_error {e : Stop} (h : chunkLoop clen.toNat clen.toNat (Safety.framerBegun s) = .error e v) :
    doFrmRun clen dlen (s.begin 0x60) = .error e v := by
  rw [doFrmRun, Proc.bind_update]
  exact Proc.bind_of_error h

/-- FRM_RUN whose loop returns (45_framer.md R166, R169). -/
theorem exec_frmRun_of_loop (hs : s.faulted = false)
    (h : chunkLoop clen.toNat clen.toNat (Safety.framerBegun s) = .ok () v) :
    exec (.frmRun clen dlen) s = .next (lengthChecked dlen v) := by
  have hop : v.tmp.opcode = 0x60 := ((framed_chunkLoop _ _).ok h).1.opcode
  have hrun := doFrmRun_of_loop (dlen := dlen) h
  rw [lengthChecked]
  split_ifs at hrun ⊢ with hlen
  · exact command_of_ok hs hrun
  · rw [← hop, ← faultEntry_eq_faulting]
    exact command_of_raise hs hrun

/-- FRM_RUN over the chunks of its container (45_framer.md R166, R168, R169). -/
theorem exec_frmRun_of_chunksRun (hs : s.faulted = false) (h : ChunksRun clen.toNat (Safety.framerBegun s) v out) :
    v.frmOut = out ∧ exec (.frmRun clen dlen) s = .next (lengthChecked dlen v) := by
  obtain ⟨hloop, hout⟩ := chunkLoop_of_chunksRun h clen.isLt (n := clen.toNat) hs (Nat.le_add_left _ _)
  exact ⟨hout, exec_frmRun_of_loop hs hloop⟩

/-- A container whose loop ends without any chunk. -/
theorem exec_frmRun_of_no_chunk (hs : s.faulted = false) (h : ChunksRun clen.toNat (Safety.framerBegun s) v []) :
    exec (.frmRun clen dlen) s =
      .next (if dlen = 0 then succeeded (.bytes []) v else faulting 0x60 .outputLengthMismatch v) := by
  obtain ⟨hout, hexec⟩ := exec_frmRun_of_chunksRun (dlen := dlen) hs h
  have hzero : 0 = dlen.toNat ↔ dlen = 0 := eq_comm.trans (BitVec.toNat_inj (y := 0))
  rw [hexec, lengthChecked, hout]
  simp only [List.length_nil, hzero]

/-- A container that begins with a header of a size of 0 has no chunk, and the bytes of the header are counted
(45_framer.md R166). -/
theorem exec_frmRun_of_zeroHeader {i : Instr} {fs bs bytes : Nat} (hs : s.faulted = false) (hclen : clen ≠ 0)
    (hfetch : fetchElement .chunkHeader (Safety.framerBegun s) = .ok i (skipped (Safety.framerBegun s) bytes))
    (hrun : runElement i = chunkHeader fs bs bytes) (hzero : fs = 0 ∨ bs = 0) :
    let t := { skipped s bytes with frmConsumed := BitVec.ofNat 33 (0 + bytes), frmOut := [] }
    exec (.frmRun clen dlen) s =
      .next (if dlen = 0 then succeeded (.bytes []) t else faulting 0x60 .outputLengthMismatch t) := by
  have hheader : ElementRun .chunkHeader (Safety.framerBegun s) i
      { skipped s bytes with
        frmConsumed := BitVec.ofNat 33 (0 + bytes), frmOut := [], tmp := { opcode := 0x60, fs := fs, bs := bs } } :=
    (elementRun_iff (s := Safety.framerBegun s) hs).2 ⟨_, hfetch, congrFun hrun _⟩
  have hpos : 0 < clen.toNat := Nat.pos_of_ne_zero fun h => hclen (BitVec.eq_of_toNat_eq h)
  exact (exec_frmRun_of_no_chunk hs (.stop _ _ i hpos hheader hzero) :)

end

/-- Settles O56: no chunk is read, as nothing is owed or as the first header carries a size of 0. -/
theorem framerLoopEnds : Obligations.FramerLoopEnds := by
  intro s clen dlen hs
  refine ⟨?_, fun hclen hin hff hzero => ?_, fun hclen hin h0 h1 => ?_⟩
  · rintro rfl
    exact exec_frmRun_of_no_chunk (v := Safety.framerBegun s) hs (.done _ (Nat.zero_le _))
  · refine exec_frmRun_of_zeroHeader hs hclen (fetch_chunkHeader_explicit (s := Safety.framerBegun s) hin hff) rfl ?_
    change (s.storeByte (s.byteOff + 1) ++ s.storeByte (s.byteOff + 2)).toNat = 0 ∨
      (s.storeByte (s.byteOff + 3) ++ s.storeByte (s.byteOff + 4)).toNat = 0
    rcases hzero with ⟨h1, h2⟩ | ⟨h3, h4⟩
    · exact .inl (by rw [h1, h2]; rfl)
    · exact .inr (by rw [h3, h4]; rfl)
  · have hff : s.storeByte s.byteOff ≠ 0xFF := by rw [h0]; decide
    refine exec_frmRun_of_zeroHeader hs hclen (fetch_chunkHeader_implicit (s := Safety.framerBegun s) hin hff) rfl
      (.inr ?_)
    change (s.storeByte s.byteOff ++ s.storeByte (s.byteOff + 1)).toNat = 0
    rw [h0, h1]
    rfl

end Sys2Proof.Machine

namespace Sys2Proof.Machine

open Sys2Proof.Safety

/-! ## Which causes a procedure can raise -/

/-- Every fault that the procedure raises, from whatever state, has one of the causes. -/
def RaisesOnly {α : Type} (cs : List Cause) (p : Proc α) : Prop :=
  ∀ s t k, p s = .error (.raise k) t → k ∈ cs

section
variable {α β : Type} {cs : List Cause}

theorem RaisesOnly.mono {ds : List Cause} {p : Proc α} (hp : RaisesOnly cs p) (h : cs ⊆ ds) : RaisesOnly ds p :=
  fun s t k he => h (hp s t k he)

theorem RaisesOnly.pure (a : α) : RaisesOnly cs (Pure.pure a : Proc α) := fun _ _ _ h => by cases h

theorem RaisesOnly.halt (f : Fault) : RaisesOnly cs (halt f : Proc α) := fun _ _ _ h => by cases h

theorem RaisesOnly.update (f : State → State) : RaisesOnly cs (update f) := fun _ _ _ h => by cases h

theorem RaisesOnly.raise {c : Cause} (hc : c ∈ cs) : RaisesOnly cs (raise c : Proc α) := fun _ _ _ h => by
  cases h
  exact hc

theorem RaisesOnly.bind {p : Proc α} {f : α → Proc β} (hp : RaisesOnly cs p) (hf : ∀ a, RaisesOnly cs (f a)) :
    RaisesOnly cs (p >>= f) := fun s t k h => by
  rcases Proc.bind_eq_error.1 h with h | ⟨a, u, -, h⟩
  · exact hp s t k h
  · exact hf a u t k h

theorem RaisesOnly.bind_get {f : State → Proc β} (hf : ∀ s, RaisesOnly cs (f s)) :
    RaisesOnly cs (MonadState.get >>= f) :=
  fun s t k h => hf s s t k h

theorem RaisesOnly.ite {c : Prop} [Decidable c] {p q : Proc α} (hp : RaisesOnly cs p) (hq : RaisesOnly cs q) :
    RaisesOnly cs (if c then p else q) := by
  split
  · exact hp
  · exact hq

/-- A check that changes nothing. -/
theorem RaisesOnly.check (c : State → Prop) [DecidablePred c] {k : Cause} (hk : k ∈ cs) :
    RaisesOnly cs (fun s => if c s then .error (.raise k) s else .ok () s : Proc Unit) := fun s t d h => by
  dsimp only at h
  split at h <;> cases h
  exact hk

/-- The end of a loop's bound, where the model stops if turns are left. -/
theorem RaisesOnly.bound (c : State → Prop) [DecidablePred c] (f : Fault) :
    RaisesOnly cs (fun s => if c s then .error (.halt f) s else .ok () s : Proc Unit) := fun s t k h => by
  dsimp only at h
  split at h <;> cases h

end

/-- The causes that a chunk can raise once its header is read (60_exceptions.md R174). -/
abbrev engineCauses : List Cause :=
  [.readPastEnd, .badOperand, .buildOverrun, .buildIncomplete, .decodeUnfilled, .decodeExhausted, .transformBitSet,
    .invalidBlockType, .pretreeRunOvershoot, .pretreeBadSameSymbol, .badMatchOffset, .unwrittenWindowRead,
    .matchOverrun, .windowOverrun, .uncompressedOverrun]

/-- A procedure that raises no other cause. -/
abbrev EngineRaises {α : Type} (p : Proc α) : Prop := RaisesOnly engineCauses p

/-! ## The buffer and the window -/

theorem engineRaises_writeCursor (b k : Nat) : EngineRaises (writeCursor b k) := fun s t c h => by
  rcases writeCursor_cases b k s with ⟨-, hrun⟩ | ⟨-, hrun⟩ <;> rw [hrun] at h <;> cases h
  decide

theorem engineRaises_readRaw (n : Nat) : EngineRaises (readRaw n) := fun s t c h => by
  rcases readRaw_cases n s with ⟨-, hrun⟩ | ⟨-, hrun⟩ <;> rw [hrun] at h <;> cases h
  decide

theorem engineRaises_lzxInt16 : EngineRaises lzxInt16 := (engineRaises_readRaw 2).bind fun _ => .pure _

theorem engineRaises_readU32 : EngineRaises readU32 := (engineRaises_readRaw 4).bind fun _ => .pure _

theorem engineRaises_writeByteOffset (b : Nat) : EngineRaises (writeByteOffset b) :=
  fun s => engineRaises_writeCursor b s.bitOff s

theorem engineRaises_readBits (n : Nat) : EngineRaises (readBits n) := by
  refine .bind_get fun s => ?_
  split
  · exact (engineRaises_writeCursor _ _).bind fun _ => .pure _
  · exact (engineRaises_writeCursor _ _).bind fun _ => .raise (by decide)

theorem engineRaises_peekBits (n : Nat) : EngineRaises (peekBits n) := fun s t c h => by
  rcases peekBits_cases n s with ⟨-, hrun⟩ | ⟨-, hrun⟩ <;> rw [hrun] at h <;> cases h
  decide

theorem engineRaises_alignCursor : EngineRaises alignCursor := fun s t c h => by
  rw [alignCursor_run] at h
  split at h
  · cases h
  · exact engineRaises_writeCursor _ _ s t c h

theorem engineRaises_winRead (i : Nat) : EngineRaises (winRead i) := fun s t c h => by
  unfold winRead at h
  split at h <;> cases h
  decide

theorem engineRaises_winWrite (i : Nat) (v : Byte) : EngineRaises (winWrite i v) := fun s t c h => by
  unfold winWrite at h
  split at h <;> cases h

theorem engineRaises_readWindow (cells : List Nat) : EngineRaises (readWindow cells) := by
  induction cells with
  | nil => exact .pure _
  | cons i cells ih => exact (engineRaises_winRead i).bind fun _ => ih.bind fun _ => .pure _

theorem engineRaises_writeWindow (i : Nat) (bs : List Byte) : EngineRaises (writeWindow i bs) := by
  induction bs generalizing i with
  | nil => exact .pure _
  | cons b bs ih => exact (engineRaises_winWrite _ _).bind fun _ => ih _

/-! ## The Huffman unit -/

theorem engineRaises_walkTable (t : List Leaf) (w n k : Nat) : EngineRaises (walkTable t w n k) := by
  induction n generalizing k with
  | zero => exact .raise (by decide)
  | succ n ih =>
    unfold walkTable
    split
    · exact .pure _
    · exact .raise (by decide)
    · exact ih _

theorem engineRaises_passSymbol (sym len : Nat) : EngineRaises (passSymbol sym len) :=
  .bind_get fun _ => RaisesOnly.bind (fun s => engineRaises_writeCursor _ _ s) fun _ => .pure _

theorem engineRaises_decodeTree (x : Tree) : EngineRaises (decodeTree x) := by
  refine .bind_get fun s => (engineRaises_peekBits _).bind fun p => ?_
  split
  · exact engineRaises_passSymbol _ _
  · exact .raise (by decide)
  · exact (engineRaises_peekBits 32).bind fun _ => (engineRaises_walkTable _ _ _ _).bind fun _ =>
      engineRaises_passSymbol _ _

/-- A build that fails overruns or is incomplete (42_huffman.md R127). -/
theorem engineRaises_buildTree (x : Tree) : EngineRaises (buildTree x) := fun s t c h => by
  rcases buildTree_cases x s with ⟨_, -, hrun⟩ | ⟨d, hbuild, hrun⟩ <;> rw [hrun] at h <;> cases h
  have houtcome := buildOutcome_of_error (treeBits_range x) hbuild
  unfold buildOutcome at houtcome
  split_ifs at houtcome <;> cases houtcome <;> decide

/-! ## The fetch of an element -/

theorem engineRaises_readField (k : FieldKind) : EngineRaises (readField k) := by
  cases k with
  | raw w => exact (engineRaises_readBits w).bind fun _ => .pure _
  | sym x => exact (engineRaises_decodeTree x).bind fun _ => .pure _

theorem engineRaises_readFields (ks : List FieldKind) : EngineRaises (readFields ks) := by
  induction ks with
  | nil => exact .pure _
  | cons k ks ih => exact (engineRaises_readField k).bind fun _ => ih.bind fun _ => .pure _

theorem engineRaises_decoded (fmt : Format) (fields : List Field) : EngineRaises (decoded fmt fields) := by
  unfold decoded
  split
  · exact .pure _
  · exact .halt _

theorem engineRaises_checkRun (count : Nat) : EngineRaises (checkRun count) := .check _ (by decide)

theorem engineRaises_fetchChunkHeader : EngineRaises fetchChunkHeader := by
  refine RaisesOnly.bind ((engineRaises_readRaw 1).bind fun _ => .pure _) fun _ => .ite ?_ ?_
  · exact engineRaises_lzxInt16.bind fun _ => engineRaises_lzxInt16.bind fun _ => engineRaises_decoded _ _
  · exact .bind_get fun _ => (engineRaises_writeByteOffset _).bind fun _ => engineRaises_lzxInt16.bind fun _ =>
      engineRaises_decoded _ _

theorem engineRaises_fetchBlockHeader : EngineRaises fetchBlockHeader :=
  (engineRaises_readBits 3).bind fun _ => RaisesOnly.bind (.update _) fun _ => (engineRaises_readBits 16).bind fun _ =>
    (engineRaises_readBits 8).bind fun _ => engineRaises_decoded _ _

theorem engineRaises_readLengthFields (w : Nat) (latch : Nat → Nat → State → State) (n i : Nat) :
    EngineRaises (readLengthFields w latch n i) := by
  induction n generalizing i with
  | zero => exact .pure _
  | succ n ih =>
    exact (engineRaises_readBits w).bind fun _ => RaisesOnly.bind (.update _) fun _ => (ih _).bind fun _ => .pure _

theorem engineRaises_fetchPretreeItem : EngineRaises fetchPretreeItem := by
  refine (engineRaises_decodeTree _).bind fun _ => .ite ?_ ?_
  · exact (engineRaises_readBits 1).bind fun _ => (engineRaises_checkRun _).bind fun _ =>
      (engineRaises_decodeTree _).bind fun _ => engineRaises_decoded _ _
  · exact (engineRaises_readFields _).bind fun _ => engineRaises_decoded _ _

theorem engineRaises_fetchUncompReps : EngineRaises fetchUncompReps :=
  engineRaises_readU32.bind fun _ => RaisesOnly.bind (.update _) fun _ => engineRaises_readU32.bind fun _ =>
    RaisesOnly.bind (.update _) fun _ => engineRaises_readU32.bind fun _ => RaisesOnly.bind (.update _) fun _ =>
      engineRaises_decoded _ _

theorem engineRaises_fetchElement (k : ElemKind) : EngineRaises (fetchElement k) := by
  cases k with
  | chunkHeader => exact engineRaises_fetchChunkHeader
  | blockHeader => exact engineRaises_fetchBlockHeader
  | alignedLengths | pretree => exact (engineRaises_readLengthFields _ _ _ _).bind fun _ => engineRaises_decoded _ _
  | pretreeItem => exact engineRaises_fetchPretreeItem
  | mainItem =>
    exact (engineRaises_decodeTree _).bind fun _ => .bind_get fun _ => (engineRaises_readFields _).bind fun _ =>
      engineRaises_decoded _ _
  | transform | lengthFooter | alignedSymbol =>
    exact (engineRaises_readField _).bind fun _ => engineRaises_decoded _ _
  | align => exact engineRaises_decoded .align []
  | uncompReps => exact engineRaises_fetchUncompReps
  | uncompBytes => exact engineRaises_decoded .uncompBytes []

/-! ## The elements -/

theorem engineRaises_writeRun (count : Nat) (value : State → Nat) : EngineRaises (writeRun count value) :=
  fun s t c h => by
    rcases writeRun_cases count value s with ⟨-, hrun⟩ | ⟨-, -, hrun⟩ | ⟨-, -, hrun⟩ <;> rw [hrun] at h <;> cases h
    decide

theorem engineRaises_copyLoop (off n i : Nat) : EngineRaises (copyLoop off n i) := by
  induction n generalizing i with
  | zero => exact .pure _
  | succ n ih => exact (engineRaises_winRead _).bind fun _ => (engineRaises_winWrite _ _).bind fun _ => ih _

theorem engineRaises_finishMatch : EngineRaises finishMatch :=
  RaisesOnly.bind (.check _ (by decide)) fun _ => RaisesOnly.bind (.check _ (by decide)) fun _ =>
    .bind_get fun _ => (engineRaises_copyLoop _ _ _).bind fun _ => .update _

theorem engineRaises_match {i : Instr} {len : Nat} {src : OffsetSource} (h : matchForm i = some (len, src)) :
    EngineRaises (runElement i) := fun s t c hraise => by
  obtain ⟨-, hrun⟩ := runElement_of_matchForm h s
  exact engineRaises_finishMatch _ t c (hrun ▸ hraise)

theorem engineRaises_lit (c : Byte) : EngineRaises (doLit c) :=
  .bind_get fun _ => .ite (.halt _) ((engineRaises_winWrite _ _).bind fun _ => .update _)

theorem engineRaises_uncompBytes : EngineRaises doUncompBytes :=
  .bind_get fun _ => .ite (.raise (by decide)) ((engineRaises_readRaw _).bind fun _ =>
    (engineRaises_writeWindow _ _).bind fun _ => .update _)

theorem engineRaises_blockInstr (type : Nat) (size : BitVec 24) : EngineRaises (runElement (blockInstr type size)) := by
  have hinvalid (t : BitVec 3) : EngineRaises (blockHeader t size >>= fun _ => raise .invalidBlockType : Proc Unit) :=
    RaisesOnly.bind (.update _) fun _ => .raise (by decide)
  unfold blockInstr
  split_ifs
  · exact hinvalid 0
  · exact .update _
  · exact .update _
  · exact .update _
  · exact hinvalid _

theorem engineRaises_pretreeInstr (sym : Nat) (vs : List Nat) : EngineRaises (runElement (pretreeInstr sym vs)) := by
  unfold pretreeInstr
  split_ifs
  · exact engineRaises_writeRun _ _
  · exact engineRaises_writeRun _ _
  · exact engineRaises_writeRun _ _
  · exact (engineRaises_checkRun _).bind fun _ => .ite (.raise (by decide)) (engineRaises_writeRun _ _)

theorem engineRaises_runElement {k : ElemKind} {i : Instr} (hi : PlaceHolds k i) : EngineRaises (runElement i) := by
  cases k with
  | chunkHeader => rcases hi with ⟨fs, bs, rfl⟩ | ⟨bs, rfl⟩ <;> exact .update _
  | transform =>
    obtain ⟨b, rfl⟩ := hi
    exact .ite (.update _) (.raise (by decide))
  | blockHeader =>
    obtain ⟨type, size, rfl⟩ := hi
    exact engineRaises_blockInstr type size
  | alignedLengths =>
    obtain ⟨a, rfl⟩ := hi
    exact RaisesOnly.bind (.update _) fun _ => engineRaises_buildTree _
  | pretree =>
    obtain ⟨p, rfl⟩ := hi
    exact RaisesOnly.bind (.update _) fun _ => engineRaises_buildTree _
  | pretreeItem =>
    obtain ⟨sym, vs, rfl⟩ := hi
    exact engineRaises_pretreeInstr sym vs
  | mainItem =>
    rcases hi with ⟨c, rfl⟩ | ⟨len, src, h⟩
    · exact engineRaises_lit c
    · exact engineRaises_match h
  | lengthFooter | alignedSymbol =>
    obtain ⟨f, rfl⟩ := hi
    exact .update _
  | align =>
    obtain rfl := hi
    exact engineRaises_alignCursor
  | uncompReps =>
    obtain ⟨r0, r1, r2, rfl⟩ := hi
    exact .update _
  | uncompBytes =>
    obtain rfl := hi
    exact engineRaises_uncompBytes

theorem engineRaises_runNext (k : ElemKind) : EngineRaises (runNext k) := fun s t c h => by
  rcases Proc.bind_eq_error.1 h with h | ⟨i, u, hfetch, h⟩
  · exact engineRaises_fetchElement k s t c h
  · exact engineRaises_runElement (yields_fetchElement k s i u hfetch) u t c h

/-! ## The engine's control -/

theorem engineRaises_pretreeItems (n : Nat) : EngineRaises (pretreeItems n) := by
  induction n with
  | zero => exact .bound _ _
  | succ n ih => exact .bind_get fun _ => .ite ((engineRaises_runNext _).bind fun _ => ih) (.pure _)

theorem engineRaises_readLengths (x : LenArray) (first last : Nat) : EngineRaises (readLengths x first last) :=
  (engineRaises_runNext _).bind fun _ => RaisesOnly.bind (.update _) fun _ => engineRaises_pretreeItems _

theorem engineRaises_verbatimTrees : EngineRaises verbatimTrees :=
  (engineRaises_readLengths _ _ _).bind fun _ => (engineRaises_readLengths _ _ _).bind fun _ =>
    (engineRaises_buildTree _).bind fun _ => (engineRaises_readLengths _ _ _).bind fun _ => engineRaises_buildTree _

theorem engineRaises_readBlockHeader : EngineRaises readBlockHeader :=
  (engineRaises_runNext _).bind fun _ => .bind_get fun _ =>
    .ite ((engineRaises_runNext _).bind fun _ => engineRaises_verbatimTrees) <|
      .ite engineRaises_verbatimTrees <|
        .ite ((engineRaises_runNext _).bind fun _ => engineRaises_runNext _) (.raise (by decide))

theorem engineRaises_compressedRun (n : Nat) : EngineRaises (compressedRun n) := by
  induction n with
  | zero => exact .bound _ _
  | succ n ih => exact .bind_get fun _ => .ite ((engineRaises_runNext _).bind fun _ => ih) (.pure _)

theorem engineRaises_startRun (run : Nat) : EngineRaises (startRun run) := fun s t c h => by
  rw [startRun_run] at h
  split at h <;> cases h
  decide

theorem engineRaises_runStep : EngineRaises runStep :=
  .bind_get fun _ => .ite (.pure _) ((engineRaises_startRun _).bind fun _ =>
    .ite (engineRaises_compressedRun _) (engineRaises_runNext _))

theorem engineRaises_frameLoop (n : Nat) : EngineRaises (frameLoop n) := by
  induction n with
  | zero => exact .bound _ _
  | succ n ih =>
    have hturn : EngineRaises (runStep >>= fun _ => frameLoop n) := engineRaises_runStep.bind fun _ => ih
    exact .bind_get fun _ => .ite (.ite (engineRaises_readBlockHeader.bind fun _ => hturn) hturn) (.pure _)

theorem engineRaises_decompress (fs bs : Nat) : EngineRaises (decompress fs bs) :=
  RaisesOnly.bind (.update _) fun _ =>
    RaisesOnly.bind (.bind_get fun _ => .ite (.pure _) (engineRaises_runNext _)) fun _ =>
      RaisesOnly.bind (.update _) fun _ => .bind_get fun _ => (engineRaises_frameLoop _).bind fun _ =>
        engineRaises_alignCursor.bind fun _ => .bind_get fun _ => engineRaises_readWindow _

/-! ## O57: the length of the output -/

/-- The loop of FRM_RUN leaves the length of the output to be checked after it (45_framer.md R169). -/
theorem raises_chunkLoop (clen n : Nat) : RaisesOnly (.frameSizeRange :: engineCauses) (chunkLoop clen n) := by
  have hengine {α : Type} {p : Proc α} (hp : EngineRaises p) : RaisesOnly (.frameSizeRange :: engineCauses) p :=
    hp.mono (List.subset_cons_self _ _)
  induction n with
  | zero => exact .bound _ _
  | succ n ih =>
    exact .bind_get fun _ => .ite ((hengine (engineRaises_runNext _)).bind fun _ => .bind_get fun _ =>
      .ite (.pure _) <| .ite (.raise (by decide)) <| (hengine (engineRaises_decompress _ _)).bind fun _ =>
        RaisesOnly.bind (.update _) fun _ => ih) (.pure _)

section
variable {s t v : State} {clen dlen : U32}

/-- FRM_RUN that answers, or that faults with a length mismatch, has left its loop and checked the length
(45_framer.md R169). -/
theorem loop_of_exec_frmRun (hs : s.faulted = false) (h : exec (.frmRun clen dlen) s = .next t)
    (hr : (∃ r, t.response = some (.ok r)) ∨ t.response = some (.fault .outputLengthMismatch)) :
    ∃ v, chunkLoop clen.toNat clen.toNat (Safety.framerBegun s) = .ok () v ∧ t = lengthChecked dlen v := by
  cases hloop : chunkLoop clen.toNat clen.toNat (Safety.framerBegun s) with
  | ok _ v =>
    cases h.symm.trans (exec_frmRun_of_loop hs hloop)
    exact ⟨v, rfl, rfl⟩
  | error e v =>
    have hrun : doFrmRun clen dlen (s.begin 0x60) = .error e v := doFrmRun_of_error hloop
    rcases command_eq_next (op := 0x60) (p := doFrmRun clen dlen) h with
      ⟨hf, -⟩ | ⟨-, _, _, hok, -⟩ | ⟨-, k, u, herror, rfl⟩
    · cases hs.symm.trans hf
    · cases hrun.symm.trans hok
    · cases hrun.symm.trans herror
      have hk := raises_chunkLoop _ _ _ _ _ hloop
      rcases hr with ⟨r, hr⟩ | hr <;> cases hr
      exact absurd hk (by decide)

theorem lengthChecked_frmOut (dlen : U32) (v : State) : (lengthChecked dlen v).frmOut = v.frmOut := by
  unfold lengthChecked
  split <;> rfl

theorem lengthChecked_of_eq (h : v.frmOut.length = dlen.toNat) :
    lengthChecked dlen v = succeeded (.bytes v.frmOut) v := if_pos h

theorem lengthChecked_of_ne (h : v.frmOut.length ≠ dlen.toNat) :
    lengthChecked dlen v = faulting 0x60 .outputLengthMismatch v := if_neg h

/-- FRM_RUN answers all of FRM_OUT, and only at the declared length (45_framer.md R169). -/
theorem lengthChecked_ok {r : Result} (h : (lengthChecked dlen v).response = some (.ok r)) :
    r = .bytes v.frmOut ∧ v.frmOut.length = dlen.toNat := by
  by_cases hlen : v.frmOut.length = dlen.toNat
  · rw [lengthChecked_of_eq hlen] at h
    cases h
    exact ⟨rfl, hlen⟩
  · rw [lengthChecked_of_ne hlen] at h
    cases h

/-- It faults only at another length. -/
theorem lengthChecked_mismatch {k : Cause} (h : (lengthChecked dlen v).response = some (.fault k)) :
    v.frmOut.length ≠ dlen.toNat := fun hlen => by
  rw [lengthChecked_of_eq hlen] at h
  cases h

end

/-- Settles O57: a loop that has returned is the same whatever length is declared, and it has run the chunks of the
container. -/
theorem framerOutputHasTheDeclaredLength : Obligations.FramerOutputHasTheDeclaredLength := by
  intro s t clen dlen hs h
  refine ⟨fun r hr => ?_, fun hr => ?_, fun v out hchunks => ?_⟩
  · obtain ⟨v, -, rfl⟩ := loop_of_exec_frmRun hs h (.inl ⟨r, hr⟩)
    rw [lengthChecked_frmOut]
    exact lengthChecked_ok hr
  · obtain ⟨v, hloop, rfl⟩ := loop_of_exec_frmRun hs h (.inr hr)
    rw [lengthChecked_frmOut]
    refine ⟨lengthChecked_mismatch hr, fun d hd => ⟨_, exec_frmRun_of_loop hs hloop, ?_⟩⟩
    rw [lengthChecked_of_eq hd.symm]
    rfl
  · obtain ⟨rfl, hexec⟩ := exec_frmRun_of_chunksRun (dlen := dlen) hs hchunks
    cases h.symm.trans hexec
    exact ⟨rfl, rfl⟩

end Sys2Proof.Machine

/-!
PROOFS of 60_exceptions.md. What a core in FAULTED does (O9); what a fault records (O11), from which a run that has
faulted does not succeed (O10); which commands can raise which cause (O13); and the codes (O12).
-/

namespace Sys2Proof.Machine

open Sys2Proof.Safety

/-! ## O9: what a core in FAULTED does -/

/-- In FAULTED an observation may answer, and RESET runs; all else is refused (60_exceptions.md R179). -/
theorem exec_of_faulted {i : Instr} {s : State} (hs : s.faulted = true) (hreset : i ≠ .reset) :
    exec i s = .next (refusing s) ∨ ∃ r, exec i s = .next (succeeded r s) := by
  have hcommand {op : BitVec 8} {p : Proc Result} (he : exec i s = command op p s) : exec i s = .next (refusing s) :=
    he.trans (command_of_faulted op p hs)
  have helement (he : exec i s = element (runElement i) s) : exec i s = .next (refusing s) :=
    he.trans (element_of_faulted _ hs)
  cases i with
  | reset => exact absurd rfl hreset
  | regRead a =>
    cases h : s.register a.toNat with
    | none => exact .inl ((exec_regRead_of_none s a h).trans (by rw [if_pos hs]))
    | some v => exact .inr ⟨_, exec_regRead_of_some s a h⟩
  | arrayRead a b =>
    cases h : s.arrayElement a.toNat b.toNat with
    | none => exact .inl ((exec_arrayRead_of_none s a b h).trans (by rw [if_pos hs]))
    | some r => exact .inr ⟨r, exec_arrayRead_of_some s a b h⟩
  | getPos => exact .inl (hcommand (p := doGetPos) rfl)
  | lzxReset => exact .inl (hcommand (p := doLzxReset) rfl)
  | illegal => exact .inl (hcommand (p := doIllegal) rfl)
  | seekAbs | seekRel | readBytes | peekBytes | readU8 | readI8 | readU16LE | readU16BE | readI16LE | readI16BE
  | readU32LE | readU32BE | readI32LE | readI32BE | readF32LE | readF32BE | readF64LE | readF64BE | read7Bit | readString
  | readLzxInt16 | readBits | peekBits | setBitPos | align | hufBuild | hufDecode | lzxDecompress | frmRun | load =>
    exact .inl (hcommand rfl)
  | _ => exact .inl (helement rfl)

/-- Settles O9: a command that is no observation is refused; an observation shows what the maps list, or is refused. -/
theorem faultedCoreRefuses : Obligations.FaultedCoreRefuses := by
  rintro ⟨op, a, b, data⟩ s hs
  refine ⟨fun h6 h7 hr => ?_, fun hop => ?_, ?_, ?_, ?_⟩
  · obtain ⟨p, -, hexec⟩ := exec_command (c := ⟨op, a, b, data⟩) h6 h7 hr
    rw [hexec]
    exact command_of_faulted op p hs
  · rcases hop with rfl | rfl
    · exact exec_of_faulted (i := .regRead a) hs nofun
    · exact exec_of_faulted (i := .arrayRead a b) hs nofun
  · rintro rfl hreserved
    have hnone : s.register a.toNat = none :=
      Option.eq_none_iff_forall_ne_some.2 fun v hv => hreserved v (mem_registerMap_of_register hv)
    exact (exec_regRead_of_none s a hnone).trans (by rw [if_pos hs])
  · rintro rfl hinvalid
    exact (exec_arrayRead_of_none s a b (arrayElement_eq_none hinvalid)).trans (by rw [if_pos hs])
  · rintro rfl
    exact ⟨resetCore s, rfl, rfl⟩

/-! ## O11: what a fault records -/

section
variable {c : Command} {p : Proc Result} {s t : State}

/-- In IDLE an observation is a command like any other. -/
theorem Runs.of_idle (hc : Runs c p) (hs : s.faulted = false) :
    exec (decodeCommand c) s = command c.opcode p s := by
  rcases hc with hc | hc
  · exact hc s
  · exact (hc s).trans (observation_of_idle _ p hs)

/-- Every command but RESET runs a procedure that leaves the fault registers. -/
theorem exists_runs_recorded (hr : c.opcode ≠ 0x7F) : ∃ p, Runs c p ∧ Recorded p := by
  obtain ⟨op, a, b, data⟩ := c
  by_cases h6 : op = 0x06
  · subst h6
    exact ⟨doRegRead a, .inr fun _ => rfl, (framed_doRegRead a).recorded⟩
  by_cases h7 : op = 0x07
  · subst h7
    exact ⟨doArrayRead a b, .inr fun _ => rfl, (framed_doArrayRead a b).recorded⟩
  obtain ⟨p, hp, hexec⟩ := exec_command h6 h7 hr
  exact ⟨p, .inl hexec, hp⟩

end

/-- Settles O11: the procedure of the command leaves the fault registers and the command's opcode, so the entry of its
fault is all that writes them (60_exceptions.md R175). -/
theorem faultRecordsItsCommand : Obligations.FaultRecordsItsCommand := by
  intro c s t hs h
  by_cases hr : c.opcode = 0x7F
  · rw [exec_resetCommand hr h]
    exact .inr ⟨.empty, rfl, rfl, fun hn => absurd hr hn⟩
  obtain ⟨p, hc, hp⟩ := exists_runs_recorded hr
  rw [hc.of_idle hs] at h
  rcases command_eq_next h with ⟨hf, -⟩ | ⟨-, r, u, hu, rfl⟩ | ⟨-, k, u, hu, rfl⟩
  · cases hs.symm.trans hf
  · obtain ⟨-, hu⟩ := Keeps.ok hp trivial hu
    exact .inr ⟨r, rfl, hu.faulted.trans hs, fun _ =>
      ⟨hu.faulted, hu.faultClass, hu.faultCause, hu.faultOpcode, hu.faultByteOffset, hu.faultBitOffset⟩⟩
  · obtain ⟨-, hu⟩ := Keeps.error hp trivial hu
    exact .inl ⟨k, rfl, rfl, rfl, rfl, hu.opcode, rfl, rfl⟩

/-! ## O10: a run stays in FAULTED -/

section
variable {c : Command} {cs ds : List Command} {s t u : State} {r : Response} {rs qs : List Response}

/-- Sending a command runs it, and its response is the one that the state then holds. -/
theorem exec_of_send (h : send c s = some (t, r)) :
    exec (decodeCommand c) { s with pending := [] } = .next t ∧ t.response = some r := by
  rw [send, step_of_command (s := { s with pending := [c] }) rfl] at h
  split at h
  · rename_i v hv
    obtain ⟨q, hq, heq⟩ := Option.map_eq_some_iff.1 h
    cases heq
    exact ⟨hv, hq⟩
  · cases h
  · cases h

/-- A command that is answered with `ok` has not faulted. -/
theorem idle_of_send_ok (hs : s.faulted = false) (h : send c s = some (t, r)) (hr : ∃ v, r = .ok v) :
    t.faulted = false := by
  obtain ⟨hexec, hresponse⟩ := exec_of_send h
  obtain ⟨v, rfl⟩ := hr
  rcases faultRecordsItsCommand c { s with pending := [] } t hs hexec with ⟨k, hk, -⟩ | ⟨-, -, hidle, -⟩
  · cases hk.symm.trans hresponse
  · exact hidle

/-- A run sends its first command, and goes on from the state that this leaves. -/
theorem run_cons_eq_some : run (c :: cs) s = some (t, rs) ↔
    ∃ u r qs, send c s = some (u, r) ∧ run cs u = some (t, qs) ∧ rs = r :: qs := by
  cases hsend : send c s with
  | none => simp [run, hsend]
  | some p =>
    obtain ⟨u, r⟩ := p
    simp [run, hsend, eq_comm]

/-- While all responses are `ok`, no state of the run is in FAULTED. -/
theorem idle_of_run_ok (hs : s.faulted = false) (h : run cs s = some (t, rs))
    (hwhole : run (cs ++ ds) s = some (u, qs)) (hok : ∀ r ∈ qs, ∃ v, r = .ok v) : t.faulted = false := by
  induction cs generalizing s rs qs with
  | nil =>
    cases h
    exact hs
  | cons c cs ih =>
    obtain ⟨v, r, rs', hsend, h, -⟩ := run_cons_eq_some.1 h
    obtain ⟨v', r', qs', hsend', hrest, rfl⟩ := run_cons_eq_some.1 hwhole
    cases hsend.symm.trans hsend'
    obtain ⟨hr, hok⟩ := List.forall_mem_cons.1 hok
    exact ih (idle_of_send_ok hs hsend hr) h hrest hok

end

/-- Settles O10: what FAULTED refuses or answers leaves the fault registers; and a run that succeeds has been in IDLE
throughout. -/
theorem faultIsSticky : Obligations.FaultIsSticky := by
  refine ⟨fun i s t hs hi h => ?_, fun cs ds t rs hrun ht => ?_⟩
  · rcases exec_of_faulted hs hi with he | ⟨r, he⟩
    all_goals
      cases h.symm.trans he
      exact ⟨rfl, rfl, rfl, rfl, rfl, rfl⟩
  · rintro ⟨u, qs, hwhole, hok⟩
    cases ht.symm.trans (idle_of_run_ok rfl hrun hwhole hok)

end Sys2Proof.Machine

namespace Sys2Proof.Machine

open Sys2Proof.Safety

/-! ## What the procedures of the buffer can raise -/

/-- The causes of a read or a write of the cursors (41_buffer.md R89, R94). -/
abbrev bufferCauses : List Cause := [.readPastEnd, .badOperand]

/-- A procedure that raises no other cause. -/
abbrev BufferRaises {α : Type} (p : Proc α) : Prop := RaisesOnly bufferCauses p

theorem bufferRaises_writeCursor (b k : Nat) : BufferRaises (writeCursor b k) := fun s t c h => by
  rcases writeCursor_cases b k s with ⟨-, hrun⟩ | ⟨-, hrun⟩ <;> rw [hrun] at h <;> cases h
  decide

theorem bufferRaises_writeByteOffset (b : Nat) : BufferRaises (writeByteOffset b) :=
  fun s => bufferRaises_writeCursor b s.bitOff s

theorem bufferRaises_setBitPos (v : Int) : BufferRaises (setBitPos v) := fun s => bufferRaises_writeCursor _ _ s

theorem bufferRaises_alignCursor : BufferRaises alignCursor := fun s t c h => by
  rw [alignCursor_run] at h
  split at h
  · cases h
  · exact bufferRaises_writeCursor _ _ s t c h

theorem bufferRaises_memRead (a n : Nat) : BufferRaises (memRead a n) := fun s t c h => by
  unfold memRead at h
  split at h <;> cases h
  decide

theorem bufferRaises_readRaw (n : Nat) : BufferRaises (readRaw n) :=
  .bind_get fun _ => (bufferRaises_memRead _ _).bind fun _ => (bufferRaises_writeByteOffset _).bind fun _ => .pure _

theorem bufferRaises_readNumber (n : Nat) (value : List Byte → Result) : BufferRaises (readNumber n value) :=
  (bufferRaises_readRaw n).bind fun _ => .pure _

theorem bufferRaises_readBits (n : Nat) : BufferRaises (readBits n) := by
  refine .bind_get fun s => ?_
  split
  · exact (bufferRaises_writeCursor _ _).bind fun _ => .pure _
  · exact (bufferRaises_writeCursor _ _).bind fun _ => .raise (by decide)

theorem bufferRaises_peekBits (n : Nat) : BufferRaises (peekBits n) := fun s t c h => by
  rcases peekBits_cases n s with ⟨-, hrun⟩ | ⟨-, hrun⟩ <;> rw [hrun] at h <;> cases h
  decide

/-- A 7-bit integer may besides have no end (41_buffer.md R115). -/
theorem raises_varintLoop (n i r : Nat) : RaisesOnly (.noTerminator :: bufferCauses) (varintLoop n i r) := by
  induction n generalizing i r with
  | zero => exact .raise (by decide)
  | succ n ih =>
    have hbyte : BufferRaises readByte := (bufferRaises_readRaw 1).bind fun _ => .pure _
    exact (hbyte.mono (List.subset_cons_self _ _)).bind fun _ => .ite (.pure _) (ih _ _)

theorem raises_doRegRead (a : U32) : RaisesOnly [.reservedRegister] (doRegRead a) := by
  refine .bind_get fun s => ?_
  split
  · exact .pure _
  · exact .raise (List.mem_singleton_self _)

theorem bufferRaises_doArrayRead (a b : U32) : BufferRaises (doArrayRead a b) := by
  refine .bind_get fun s => ?_
  split
  · exact .pure _
  · exact .raise (by decide)

/-! ## What the Huffman commands and FRM_RUN can raise -/

/-- A build that fails overruns or is incomplete (42_huffman.md R127). -/
theorem mem_of_buildTable_error {accept : Bool} {tb : Nat} {lens : List Nat} {k : Cause} (htb : 1 ≤ tb ∧ tb ≤ 16)
    (h : buildTable accept tb lens = .error k) : k ∈ [Cause.buildOverrun, .buildIncomplete] := by
  have houtcome := buildOutcome_of_error htb h
  unfold buildOutcome at houtcome
  split_ifs at houtcome <;> cases houtcome <;> decide

theorem raises_doHufBuild (n tb : U32) (data : List Byte) :
    RaisesOnly [.badOperand, .buildOverrun, .buildIncomplete] (doHufBuild n tb data) := fun s t k h => by
  rcases doHufBuild_cases n tb data s with ⟨-, hrun⟩ | ⟨hok, ⟨c, hbuild, hrun⟩ | ⟨ls, -, hrun⟩⟩
  all_goals cases hrun.symm.trans h
  · decide
  · obtain ⟨-, htb, -⟩ := (hufOperandsOk_iff _ _ _).1 hok
    exact List.mem_cons_of_mem _ (mem_of_buildTable_error htb hbuild)

/-- The causes of a decode (42_huffman.md R132, R133). -/
abbrev decodeCauses : List Cause := .decodeUnfilled :: .decodeExhausted :: bufferCauses

theorem raises_walkTable (t : List Leaf) (w n k : Nat) : RaisesOnly decodeCauses (walkTable t w n k) := by
  induction n generalizing k with
  | zero => exact .raise (by decide)
  | succ n ih =>
    unfold walkTable
    split
    · exact .pure _
    · exact .raise (by decide)
    · exact ih _

theorem raises_decodeSym (t : List Leaf) (lenOf : Nat → Nat) (tb : Nat) :
    RaisesOnly decodeCauses (decodeSym t lenOf tb) := by
  have hpeek (n : Nat) : RaisesOnly decodeCauses (peekBits n) := (bufferRaises_peekBits n).mono (by decide)
  have hpass (sym len : Nat) : RaisesOnly decodeCauses (passSymbol sym len) :=
    .bind_get fun _ => ((bufferRaises_setBitPos _).mono (by decide)).bind fun _ => .pure _
  refine (hpeek tb).bind fun p => ?_
  split
  · exact hpass _ _
  · exact .raise (by decide)
  · exact (hpeek 32).bind fun _ => (raises_walkTable _ _ _ _).bind fun _ => hpass _ _

/-- HUF_DECODE alone looks at the VALID flag (42_huffman.md R136). -/
theorem raises_doHufDecode : RaisesOnly (.tableNotBuilt :: decodeCauses) doHufDecode :=
  .bind_get fun _ =>
    .ite (((raises_decodeSym _ _ _).mono (List.subset_cons_self _ _)).bind fun _ => .pure _) (.raise (by decide))

/-- A chunk header carries sizes that a chunk may have (45_framer.md R166). -/
theorem chunkSizes_le {s t : State} (h : runNext .chunkHeader s = .ok () t) :
    t.tmp.fs ≤ frameBlockLimit ∧ t.tmp.bs ≤ frameBlockLimit := by
  obtain ⟨i, u, hfetch, hrun⟩ := Proc.bind_eq_ok.1 h
  rcases yields_fetchElement .chunkHeader s i u hfetch with ⟨fs, bs, rfl⟩ | ⟨bs, rfl⟩ <;> cases hrun
  · exact ⟨Nat.le_of_lt fs.isLt, Nat.le_of_lt bs.isLt⟩
  · exact ⟨show defaultFrameSize ≤ frameBlockLimit by decide, Nat.le_of_lt bs.isLt⟩

/-- FRM_RUN never finds a size that is out of range: its loop raises what a chunk can raise. -/
theorem engineRaises_chunkLoop (clen n : Nat) : EngineRaises (chunkLoop clen n) := by
  induction n with
  | zero => exact .bound _ _
  | succ n ih =>
    refine .bind_get fun _ => .ite (fun s t k h => ?_) (.pure _)
    rcases Proc.bind_eq_error.1 h with h | ⟨_, u, hheader, h⟩
    · exact engineRaises_runNext _ s t k h
    obtain ⟨hfs, hbs⟩ := chunkSizes_le hheader
    have hinRange : ¬(frameBlockLimit < u.tmp.bs ∨ frameBlockLimit < u.tmp.fs) := by omega
    rw [Proc.bind_get] at h
    simp only [if_neg hinRange] at h
    refine RaisesOnly.ite (cs := engineCauses) (.pure _) ?_ u t k h
    exact (engineRaises_decompress _ _).bind fun _ => RaisesOnly.bind (.update _) fun _ => ih

theorem raises_doFrmRun (clen dlen : U32) :
    RaisesOnly (.outputLengthMismatch :: engineCauses) (doFrmRun clen dlen) :=
  RaisesOnly.bind (.update _) fun _ =>
    ((engineRaises_chunkLoop _ _).mono (List.subset_cons_self _ _)).bind fun _ =>
      .bind_get fun _ => .ite (.pure _) (.raise (by decide))

theorem engineRaises_doLzxDecompress (fs bs : U32) : EngineRaises (doLzxDecompress fs bs) :=
  .ite (.raise (by decide)) ((engineRaises_decompress _ _).bind fun _ => .pure _)

/-! ## O13: which commands can raise which cause -/

/-- The commands that can raise a cause, by opcode (60_exceptions.md R174). -/
def mayRaise (op : BitVec 8) : Cause → Bool
  | .readPastEnd | .badOperand => true
  | .frameSizeRange => false
  | .illegalOpcode => !legalOpcodes.contains op
  | .reservedRegister => op == 0x06
  | .noTerminator => op == 0x20 || op == 0x21
  | .tableNotBuilt => op == 0x41
  | .buildOverrun | .buildIncomplete => op == 0x40 || op == 0x51 || op == 0x60
  | .decodeUnfilled | .decodeExhausted => op == 0x41 || op == 0x51 || op == 0x60
  | .outputLengthMismatch => op == 0x60
  | .transformBitSet | .invalidBlockType | .pretreeRunOvershoot | .pretreeBadSameSymbol | .badMatchOffset
  | .unwrittenWindowRead | .matchOverrun | .windowOverrun | .uncompressedOverrun => op == 0x51 || op == 0x60

/-- The command runs a procedure that raises causes of its opcode only. -/
def RaisesItsOwn (c : Command) : Prop :=
  ∃ p, Runs c p ∧ ∀ s t k, p s = .error (.raise k) t → mayRaise c.opcode k = true

section
variable {op : BitVec 8} {a b : U32} {data : List Byte} {p : Proc Result} {cs : List Cause}

theorem RaisesItsOwn.of_raisesOnly (hc : Runs ⟨op, a, b, data⟩ p) (hp : RaisesOnly cs p)
    (hcs : ∀ k ∈ cs, mayRaise op k = true) : RaisesItsOwn ⟨op, a, b, data⟩ :=
  ⟨p, hc, fun s t k h => hcs k (hp s t k h)⟩

/-- Every command may read past the end of STORE, or have a bad operand. -/
theorem RaisesItsOwn.of_bufferRaises (hc : Runs ⟨op, a, b, data⟩ p) (hp : BufferRaises p) :
    RaisesItsOwn ⟨op, a, b, data⟩ :=
  .of_raisesOnly hc hp (by simp [mayRaise])

end

/-- Every command but RESET raises what R174 gives its opcode. -/
theorem raisesItsOwn_of_opcode {op : BitVec 8} (a b : U32) (data : List Byte) (hr : op ≠ 0x7F) :
    RaisesItsOwn ⟨op, a, b, data⟩ := by
  rcases opcode_cases ⟨op, a, b, data⟩ with h | h | h | h | h
  · have hillegal : ∀ k ∈ [Cause.illegalOpcode], mayRaise op k = true := by simpa [mayRaise] using h
    exact .of_raisesOnly (p := doIllegal) (.inl fun _ => by rw [decodeCommand_illegal h]; rfl)
      (.raise (List.mem_singleton_self _)) hillegal
  · rcases h with rfl | rfl | rfl | rfl | rfl | rfl | rfl
    · exact .of_bufferRaises (p := doSeekAbs a) (.inl fun _ => rfl)
        ((bufferRaises_writeByteOffset _).bind fun _ => .pure _)
    · exact .of_bufferRaises (p := doSeekRel a) (.inl fun _ => rfl)
        (.bind_get fun _ => (bufferRaises_writeByteOffset _).bind fun _ => .pure _)
    · exact .of_bufferRaises (p := doReadBytes a) (.inl fun _ => rfl) (bufferRaises_readNumber _ .bytes)
    · exact .of_bufferRaises (p := doPeekBytes a) (.inl fun _ => rfl)
        (.bind_get fun _ => (bufferRaises_memRead _ _).bind fun _ => .pure _)
    · exact .of_bufferRaises (p := doGetPos) (.inl fun _ => rfl) (.bind_get fun _ => .pure _)
    · exact .of_raisesOnly (p := doRegRead a) (.inr fun _ => rfl) (raises_doRegRead a) (by decide)
    · exact .of_bufferRaises (p := doArrayRead a b) (.inr fun _ => rfl) (bufferRaises_doArrayRead a b)
  · rcases h with rfl | rfl | rfl | rfl | rfl | rfl | rfl | rfl | rfl | rfl | rfl | rfl | rfl | rfl
    all_goals exact .of_bufferRaises (.inl fun _ => rfl) (bufferRaises_readNumber _ _)
  · rcases h with rfl | rfl | rfl | rfl | rfl | rfl | rfl
    · exact .of_raisesOnly (p := doRead7Bit) (.inl fun _ => rfl)
        ((raises_varintLoop 5 0 0).bind fun _ => .pure _) (by decide)
    · exact .of_raisesOnly (p := doReadString) (.inl fun _ => rfl)
        ((raises_varintLoop 5 0 0).bind fun n =>
          (bufferRaises_readNumber n .bytes).mono (List.subset_cons_self _ _)) (by decide)
    · exact .of_bufferRaises (p := doReadLzxInt16) (.inl fun _ => rfl)
        (doReadLzxInt16_eq ▸ bufferRaises_readNumber _ _)
    · exact .of_bufferRaises (p := doReadBits a) (.inl fun _ => rfl)
        (.ite (.raise (by decide)) ((bufferRaises_readBits _).bind fun _ => .pure _))
    · exact .of_bufferRaises (p := doPeekBits a) (.inl fun _ => rfl)
        (.ite (.raise (by decide)) ((bufferRaises_peekBits _).bind fun _ => .pure _))
    · exact .of_bufferRaises (p := doSetBitPos a) (.inl fun _ => rfl)
        ((bufferRaises_setBitPos _).bind fun _ => .pure _)
    · exact .of_bufferRaises (p := doAlign) (.inl fun _ => rfl) (bufferRaises_alignCursor.bind fun _ => .pure _)
  · rcases h with rfl | rfl | rfl | rfl | rfl | rfl | rfl
    · exact .of_raisesOnly (p := doHufBuild a b data) (.inl fun _ => rfl) (raises_doHufBuild a b data) (by decide)
    · exact .of_raisesOnly (p := doHufDecode) (.inl fun _ => rfl) raises_doHufDecode (by decide)
    · exact .of_bufferRaises (p := doLzxReset) (.inl fun _ => rfl) (RaisesOnly.bind (.update _) fun _ => .pure _)
    · exact .of_raisesOnly (p := doLzxDecompress a b) (.inl fun _ => rfl) (engineRaises_doLzxDecompress a b) (by decide)
    · exact .of_raisesOnly (p := doFrmRun a b) (.inl fun _ => rfl) (raises_doFrmRun a b) (by decide)
    · exact .of_bufferRaises (p := doLoad data) (.inl fun _ => rfl)
        (.ite (.raise (by decide)) (RaisesOnly.bind (.update _) fun _ => .pure _))
    · exact absurd rfl hr

/-- The fault that a command answers in IDLE is one that its opcode can raise. -/
theorem mayRaise_of_response {c : Command} {s t : State} {k : Cause} (hs : s.faulted = false)
    (h : exec (decodeCommand c) s = .next t) (hk : t.response = some (.fault k)) : mayRaise c.opcode k = true := by
  by_cases hr : c.opcode = 0x7F
  · rw [exec_resetCommand hr h] at hk
    cases hk
  obtain ⟨p, hc, hp⟩ := raisesItsOwn_of_opcode c.a c.b c.data hr
  have h : command c.opcode p s = .next t := (hc.of_idle hs).symm.trans h
  rcases command_eq_next h with ⟨hf, -⟩ | ⟨-, r, u, -, rfl⟩ | ⟨-, d, u, hu, rfl⟩
  · cases hs.symm.trans hf
  · cases hk
  · cases hk
    exact hp _ _ _ hu

/-- Settles O13: clause by clause, what R174 says of the cause. -/
theorem causesComeFromTheirCommands : Obligations.CausesComeFromTheirCommands := by
  intro c s t k hs h hk
  have hmay := mayRaise_of_response hs h hk
  refine ⟨?_, fun hmem => ?_, ?_, ?_, ?_, ?_, ?_, ?_, ?_⟩
  · rintro rfl
    cases hmay
  · simp only [List.mem_cons, List.not_mem_nil, or_false] at hmem
    rcases hmem with rfl | rfl | rfl | rfl | rfl | rfl | rfl | rfl | rfl
    all_goals simpa [mayRaise] using hmay
  · rintro rfl
    simpa [mayRaise] using hmay
  · rintro (rfl | rfl)
    all_goals simpa [mayRaise, or_assoc] using hmay
  · rintro (rfl | rfl)
    all_goals simpa [mayRaise, or_assoc] using hmay
  · rintro rfl
    simpa [mayRaise] using hmay
  · rintro rfl
    simpa [mayRaise] using hmay
  · rintro rfl
    exact decodeCommand_illegal (by simpa [mayRaise] using hmay)
  · rintro rfl
    simpa [mayRaise] using hmay

/-! ## O12: the codes -/

/-- Settles O12, cause by cause. -/
theorem faultCodes : Obligations.FaultCodes :=
  ⟨rfl, fun k => by cases k <;> decide⟩

end Sys2Proof.Machine

/-!
PROOFS of 70_reset_and_hazards.md. RESET and LOAD (O8, O34).
-/

namespace Sys2Proof.Machine

open Sys2Proof.Safety

/-! ## O8: RESET -/

/-- What leaves FAULTED is RESET: all else is refused or observes (60_exceptions.md R178, R179). -/
theorem eq_reset_of_leaves_faulted {i : Instr} {s t : State} (hs : s.faulted = true) (h : exec i s = .next t)
    (ht : t.faulted = false) : i = .reset := by
  by_contra hreset
  rcases exec_of_faulted hs hreset with he | ⟨r, he⟩
  all_goals
    cases h.symm.trans he
    cases hs.symm.trans ht

/-- Settles O8: RESET puts the reset state in place, but for the parameters, the commands that wait and the response. -/
theorem resetRestoresTheResetValues : Obligations.ResetRestoresTheResetValues := by
  unfold Obligations.ResetRestoresTheResetValues
  intro atReset
  have hreset : atReset State.reset := by
    simp [atReset, State.reset, State.windowByte, Memory.get]
  exact ⟨hreset, fun s => ⟨resetCore s, rfl, hreset, rfl, rfl⟩, fun _ _ _ => eq_reset_of_leaves_faulted⟩

/-! ## O34: LOAD -/

section
variable {s : State} {data : List Byte}

/-- LOAD of bytes that an address can count puts them in place of STORE (70_reset_and_hazards.md R190). -/
theorem exec_load_of_lt (hs : s.faulted = false) (h : data.length < 2 ^ 32) :
    exec (.load data) s = .next (succeeded .empty (s.withStore data)) :=
  command_succeeded (t := s.withStore data) hs (congrFun (if_neg (Nat.not_le.2 h)) _)

theorem exec_load_of_le (hs : s.faulted = false) (h : 2 ^ 32 ≤ data.length) :
    exec (.load data) s = .next (faulting 0x70 .badOperand s) :=
  command_faulting (t := s) hs (congrFun (if_pos h) _)

theorem withStore_storeLen_toNat (s : State) (h : data.length < 2 ^ 32) :
    (s.withStore data).storeLen.toNat = data.length :=
  (BitVec.toNat_ofNat _ _).trans (Nat.mod_eq_of_lt h)

theorem withStore_storeByte (s : State) {i : Nat} (hi : i < data.length) :
    (s.withStore data).storeByte i = data[i] := by
  rw [State.storeByte_of_store (State.withStore_store s data), List.getD_eq_getElem _ _ hi]

/-- The loaded bytes lie in STORE in its canonical form (10_state.md R19). -/
theorem withStore_storeWf (s : State) (h : data.length < 2 ^ 32) : (s.withStore data).storeWf := by
  refine ⟨Memory.wf_ofBytes 0 data, fun c hc => ?_⟩
  obtain ⟨-, hlt, hne⟩ := Memory.mem_ofBytes hc
  rw [withStore_storeLen_toNat s h]
  exact ⟨by omega, hne⟩

end

/-- Settles O34: the bytes replace STORE, and more of them than an address can count fault before anything is
written. -/
theorem loadReplacesTheStore : Obligations.LoadReplacesTheStore := by
  intro s data hs
  split
  next h =>
    exact ⟨s.withStore data, exec_load_of_lt hs h, withStore_storeLen_toNat s h, fun i hi => withStore_storeByte s hi,
      withStore_storeWf s h, rfl⟩
  next h => exact exec_load_of_le hs (Nat.not_lt.1 h)

end Sys2Proof.Machine

/-!
PROOFS of 70_reset_and_hazards.md. Every command ends (O16).
-/

namespace Sys2Proof

open Sys2Proof.Machine (extraBits)

/-! ## Every value that the fields can hold is an element -/

section
variable {slot m : Nat} {lh : BitVec 3} {footer : Option (BitVec 8)} {fields : List Field} {vs : List Nat}

theorem exists_verbatimMatch (h4 : 4 ≤ slot) (h32 : slot < 32) (v : Nat) :
    ∃ i, verbatimMatch slot lh footer v = some i := by
  interval_cases slot <;> exact ⟨_, rfl⟩

/-- The slots 4 to 7 have one offset field, from slot 10 on there are two; slots 8 and 9 have those of the mode
(30_encoding.md R80). -/
theorem exists_alignedMatch {mode : Extra3Mode} (h4 : 4 ≤ slot) (h32 : slot < 32)
    (h : fieldValues (offsetPlan true mode slot) fields = .ok vs) : ∃ i, alignedMatch slot lh footer vs = some i := by
  have hslot : slot < 8 ∨ slot = 8 ∨ slot = 9 ∨ 10 ≤ slot := by omega
  rcases hslot with h8 | rfl | rfl | h10
  case inl =>
    have hplan : offsetPlan true mode slot = [.raw (extraBits slot)] := by interval_cases slot <;> rfl
    obtain ⟨v, -, rfl, -⟩ := fieldValues_singleton_eq_ok.1 (hplan ▸ h)
    interval_cases slot <;> exact ⟨_, rfl⟩
  case inr.inl | inr.inr.inl =>
    cases mode with
    | standard =>
      obtain ⟨a, -, rfl, -⟩ := fieldValues_singleton_eq_ok.1 h
      exact ⟨_, rfl⟩
    | sourceLiteral =>
      obtain ⟨v, a, -, rfl, -⟩ := fieldValues_pair_eq_ok.1 h
      exact ⟨_, rfl⟩
  case inr.inr.inr =>
    have hplan : offsetPlan true mode slot = [.raw (extraBits slot - 3), .sym .aligned] := by
      interval_cases slot <;> rfl
    obtain ⟨v, a, -, rfl, -⟩ := fieldValues_pair_eq_ok.1 (hplan ▸ h)
    interval_cases slot <;> exact ⟨_, rfl⟩

theorem exists_slotMatch {aligned : Bool} {mode : Extra3Mode} (h32 : slot < 32)
    (h : fieldValues (offsetPlan aligned mode slot) fields = .ok vs) :
    ∃ i, slotMatch aligned slot lh footer vs = some i := by
  match slot with
  | 0 | 1 | 2 | 3 => exact ⟨_, rfl⟩
  | n + 4 =>
    cases aligned with
    | true => exact exists_alignedMatch (Nat.le_add_left 4 n) h32 h
    | false => exact exists_verbatimMatch (Nat.le_add_left 4 n) h32 _

/-- The fields that a coded main symbol selects make an element with it (30_encoding.md R78). -/
theorem exists_decode_mainItem {aligned : Bool} {mode : Extra3Mode} (hm : m < 512)
    (h : fieldValues (mainPlan aligned mode m) fields = .ok vs) :
    ∃ i, decode (.element (.mainItem aligned mode) (.sym .main m :: fields)) = .ok i := by
  suffices ∃ i, mainInstr aligned m vs = some i by
    obtain ⟨i, hi⟩ := this
    exact ⟨i, decode_mainItem_eq_ok.2 ⟨m, fields, vs, rfl, hm, h, hi⟩⟩
  rcases mainSymbol_cases hm with hlit | ⟨slot, lh, hslot, rfl⟩
  · exact ⟨_, mainInstr_literal hlit⟩
  · rw [mainPlan_match] at h
    rw [mainInstr_match]
    split_ifs at h ⊢
    · obtain ⟨f, gs, xs, rfl, rfl, -, hxs⟩ := fieldValues_cons_eq_ok.1 h
      exact exists_slotMatch hslot hxs
    · exact exists_slotMatch hslot h

/-- So do those of a coded pretree symbol (30_encoding.md R77). -/
theorem exists_decode_pretreeItem (hm : m < 20) (h : fieldValues (pretreePlan m) fields = .ok vs) :
    ∃ i, decode (.element .pretreeItem (.sym .pretree m :: fields)) = .ok i :=
  ⟨_, decode_pretreeItem_eq_ok.2 ⟨m, fields, vs, rfl, hm, h, rfl⟩⟩

end

end Sys2Proof

namespace Sys2Proof.Machine

open Sys2Proof.Safety

/-! ## Procedures that meet no stop of the model -/

/-- From `s` the procedure returns or raises a fault of the spec: it meets none of the model's own stops
(notes/assumptions/12.md). -/
def Answers {α : Type} (p : Proc α) (s : State) : Prop := ∀ f t, p s ≠ .error (.halt f) t

/-- Besides, where it returns, the byte cursor is not before the place it started at. The turns of the engine's loop
are counted by it (70_reset_and_hazards.md R194). -/
structure Advances {α : Type} (p : Proc α) (s : State) : Prop where
  answers : Answers p s
  onward : ∀ a t, p s = .ok a t → s.byteOff ≤ t.byteOff

section
variable {α β : Type} {p : Proc α} {f : α → Proc β} {s t : State} {a : α} {c : Cause}

theorem Answers.of_ok (h : p s = .ok a t) : Answers p s := fun _ _ he => by cases h.symm.trans he

theorem Answers.of_raise (h : p s = .error (.raise c) t) : Answers p s := fun _ _ he => by cases h.symm.trans he

theorem Answers.bind (hp : Answers p s) (hf : ∀ a t, p s = .ok a t → Answers (f a) t) : Answers (p >>= f) s :=
  fun k u h => by
    rcases Proc.bind_eq_error.1 h with h | ⟨a, t, ha, h⟩
    · exact hp k u h
    · exact hf a t ha k u h

theorem Answers.bind_get {f : State → Proc β} (h : Answers (f s) s) : Answers (MonadState.get >>= f) s := h

theorem Answers.bind_pure (hp : Answers p s) {g : α → β} : Answers (p >>= fun a => pure (g a)) s :=
  hp.bind fun _ _ _ => .of_ok rfl

theorem Advances.of_ok (h : p s = .ok a t) (hle : s.byteOff ≤ t.byteOff) : Advances p s where
  answers := .of_ok h
  onward b u hu := by
    cases h.symm.trans hu
    exact hle

theorem Advances.of_raise (h : p s = .error (.raise c) t) : Advances p s where
  answers := .of_raise h
  onward b u hu := by cases h.symm.trans hu

theorem Advances.pure (a : α) : Advances (Pure.pure a : Proc α) s := .of_ok rfl (Nat.le_refl _)

theorem Advances.raise (c : Cause) : Advances (raise c : Proc α) s := .of_raise rfl

theorem Advances.update {g : State → State} (h : s.byteOff ≤ (g s).byteOff) : Advances (update g) s := .of_ok rfl h

theorem Advances.bind (hp : Advances p s) (hf : ∀ a t, p s = .ok a t → Advances (f a) t) : Advances (p >>= f) s where
  answers := hp.answers.bind fun a t h => (hf a t h).answers
  onward b u h := by
    obtain ⟨a, t, ha, h⟩ := Proc.bind_eq_ok.1 h
    exact (hp.onward a t ha).trans ((hf a t ha).onward b u h)

theorem Advances.bind_get {f : State → Proc β} (h : Advances (f s) s) : Advances (MonadState.get >>= f) s :=
  ⟨h.answers, h.onward⟩

theorem Advances.bind_pure (hp : Advances p s) {g : α → β} : Advances (p >>= fun a => Pure.pure (g a)) s :=
  hp.bind fun _ _ _ => .pure _

theorem Advances.ite {c : Prop} [Decidable c] {q : Proc α} (hp : c → Advances p s) (hq : ¬c → Advances q s) :
    Advances (if c then p else q) s := by
  split
  · exact hp ‹_›
  · exact hq ‹_›

/-- A check that changes nothing. -/
theorem Advances.check (b : State → Prop) [DecidablePred b] (c : Cause) :
    Advances (fun s => if b s then .error (.raise c) s else .ok () s : Proc Unit) s := by
  by_cases h : b s
  · exact .of_raise (if_pos h)
  · exact .of_ok (if_neg h) (Nat.le_refl _)

end

/-! ## Reads -/

section
variable {s t : State}

theorem answers_writeCursor (b k : Nat) (s : State) : Answers (writeCursor b k) s := by
  rcases writeCursor_cases b k s with ⟨-, h⟩ | ⟨-, h⟩
  · exact .of_ok h
  · exact .of_raise h

theorem advances_readRaw (n : Nat) (s : State) : Advances (readRaw n) s where
  answers := by
    rcases readRaw_cases n s with ⟨-, h⟩ | ⟨-, h⟩
    · exact .of_ok h
    · exact .of_raise h
  onward _ _ h := (Keeps.ok (byteRead_readRaw n) trivial h).2.forward

theorem advances_readBits (n : Nat) (s : State) : Advances (readBits n) s where
  answers := by
    by_cases h : framesPresent s n
    · exact .of_ok (readBits_of_present h)
    · exact .of_raise (readBits_of_missing h)
  onward _ _ h := (Keeps.ok (frameRead_readBits n) trivial h).2.forward

theorem advances_peekBits (n : Nat) (s : State) : Advances (peekBits n) s := by
  rcases peekBits_cases n s with ⟨-, h⟩ | ⟨-, h⟩
  · exact .of_ok h (Nat.le_refl _)
  · exact .of_raise h

theorem advances_alignCursor (s : State) : Advances alignCursor s where
  answers := by
    unfold Answers
    rw [alignCursor_run]
    split
    · exact fun _ _ h => by cases h
    · exact answers_writeCursor _ _ s
  onward _ _ h := by
    have hmove := (Keeps.ok alignStep_alignCursor trivial h).2.cursors
    omega

theorem advances_passSymbol (sym len : Nat) (s : State) : Advances (passSymbol sym len) s := by
  have hmove : Advances (setBitPos ((s.bitOff : Int) + len)) s := by
    have hrun := setBitPos_forward s len
    rcases writeCursor_cases (s.byteOff + 2 * ((s.bitOff + len) / 16)) ((s.bitOff + len) % 16) s with
      ⟨hlt, h⟩ | ⟨-, h⟩
    · exact .of_ok (hrun.trans h) (by rw [State.withCursor_byteOff _ _ hlt]; omega)
    · exact .of_raise (hrun.trans h)
  exact .bind_get hmove.bind_pure

theorem advances_walkTable (t : List Leaf) (w n k : Nat) (s : State) : Advances (walkTable t w n k) s := by
  induction n generalizing k with
  | zero => exact .raise _
  | succ n ih =>
    unfold walkTable
    split
    · exact .pure _
    · exact .raise _
    · exact ih _

theorem advances_decodeSym (t : List Leaf) (lenOf : Nat → Nat) (tb : Nat) (s : State) :
    Advances (decodeSym t lenOf tb) s := by
  refine (advances_peekBits tb s).bind fun p u _ => ?_
  split
  · exact advances_passSymbol _ _ u
  · exact .raise _
  · exact (advances_peekBits 32 u).bind fun w v _ => (advances_walkTable _ _ _ _ v).bind fun sym x _ =>
      advances_passSymbol _ _ x

theorem advances_decodeTree (x : Tree) (s : State) : Advances (decodeTree x) s :=
  .bind_get (advances_decodeSym _ _ _ s)

theorem advances_readField (k : FieldKind) (s : State) : Advances (readField k) s := by
  cases k with
  | raw w => exact (advances_readBits w s).bind_pure
  | sym x => exact (advances_decodeTree x s).bind_pure

theorem advances_readFields (ks : List FieldKind) (s : State) : Advances (readFields ks) s := by
  induction ks generalizing s with
  | nil => exact .pure _
  | cons k ks ih => exact (advances_readField k s).bind fun f u _ => (ih u).bind_pure

theorem advances_readLengthFields {latch : Nat → Nat → State → State}
    (h : ∀ i v s, (latch i v s).byteOff = s.byteOff) (w n i : Nat) (s : State) :
    Advances (readLengthFields w latch n i) s := by
  induction n generalizing i s with
  | zero => exact .pure _
  | succ n ih =>
    exact (advances_readBits w s).bind fun v t _ => (Advances.update (h i v t).ge).bind fun _ u _ =>
      (ih (i + 1) u).bind_pure

end

/-! ## What is read is in range -/

section
variable {s t : State} {v n : Nat}

theorem readBits_lt (h : readBits n s = .ok v t) : v < 2 ^ n := by
  by_cases hin : framesPresent s n
  · cases (readBits_of_present hin).symm.trans h
    exact ofBits_streamBits_lt s n
  · cases (readBits_of_missing hin).symm.trans h

/-- A decode gives a symbol of the table (42_huffman.md R132). -/
theorem sym_mem_of_entryAt {ls : List Leaf} {k p : Nat} (h : entryAt ls k p = .leaf v) : ∃ l ∈ ls, l.sym = v := by
  unfold entryAt at h
  split at h
  next l hl =>
    cases h
    exact ⟨l, List.mem_of_find?_eq_some hl, rfl⟩
  next => split at h <;> cases h

theorem sym_mem_of_walkTable {ls : List Leaf} {w k : Nat} (h : walkTable ls w n k s = .ok v t) :
    ∃ l ∈ ls, l.sym = v := by
  induction n generalizing k with
  | zero => cases h
  | succ n ih =>
    unfold walkTable at h
    cases hentry : entryAt ls (k + 1) (w / 2 ^ n) with
    | leaf sym =>
      rw [hentry] at h
      cases h
      exact sym_mem_of_entryAt hentry
    | unfilled =>
      rw [hentry] at h
      cases h
    | node =>
      rw [hentry] at h
      exact ih h

theorem passSymbol_value {sym len : Nat} (h : passSymbol sym len s = .ok v t) : v = sym := by
  rw [passSymbol, Proc.bind_get] at h
  obtain ⟨_, _, -, hret⟩ := Proc.bind_eq_ok.1 h
  cases hret
  rfl

theorem sym_mem_of_decodeSym {ls : List Leaf} {lenOf : Nat → Nat} {tb : Nat} (h : decodeSym ls lenOf tb s = .ok v t) :
    ∃ l ∈ ls, l.sym = v := by
  obtain ⟨p, u, -, h⟩ := Proc.bind_eq_ok.1 h
  cases hentry : entryAt ls tb p with
  | leaf sym =>
    rw [hentry] at h
    rw [passSymbol_value h]
    exact sym_mem_of_entryAt hentry
  | unfilled =>
    rw [hentry] at h
    cases h
  | node =>
    rw [hentry] at h
    obtain ⟨w, x, -, h⟩ := Proc.bind_eq_ok.1 h
    obtain ⟨sym, y, hwalk, h⟩ := Proc.bind_eq_ok.1 h
    rw [passSymbol_value h]
    exact sym_mem_of_walkTable hwalk

/-- A tree gives a symbol that the encoding codes (30_encoding.md R77 to R80). -/
theorem decodeTree_lt {x : Tree} (hs : EngineInv s) (h : decodeTree x s = .ok v t) : v < codedSymbols x := by
  rw [decodeTree, Proc.bind_get] at h
  obtain ⟨l, hl, rfl⟩ := sym_mem_of_decodeSym h
  have hleaves : l ∈ (s.treeTable x).leaves := by
    unfold Table.codes at hl
    split at hl
    · exact hl
    · cases hl
  cases x with
  | pretree => exact hs.pretreeSymbols l hleaves
  | main => exact hs.mainSymbols l hleaves
  | length => exact hs.lengthSymbols l hleaves
  | aligned => exact hs.alignedSymbols l hleaves

theorem readField_eq_ok {k : FieldKind} {f : Field} (hs : EngineInv s) (h : readField k s = .ok f t) :
    ∃ v, f = k.field v ∧ k.admits v := by
  cases k with
  | raw w =>
    obtain ⟨v, u, hv, h⟩ := Proc.bind_eq_ok.1 h
    cases h
    exact ⟨v, rfl, readBits_lt hv⟩
  | sym x =>
    obtain ⟨v, u, hv, h⟩ := Proc.bind_eq_ok.1 h
    cases h
    exact ⟨v, rfl, decodeTree_lt hs hv⟩

/-- The fields that are read by a plan are those the decoder asks for. -/
theorem exists_fieldValues {ks : List FieldKind} {fs : List Field} (hs : EngineInv s) (h : readFields ks s = .ok fs t) :
    ∃ vs, fieldValues ks fs = .ok vs := by
  induction ks generalizing s fs with
  | nil =>
    cases h
    exact ⟨[], rfl⟩
  | cons k ks ih =>
    obtain ⟨f, u, hf, h⟩ := Proc.bind_eq_ok.1 h
    obtain ⟨gs, x, hgs, h⟩ := Proc.bind_eq_ok.1 h
    cases h
    obtain ⟨v, rfl, hv⟩ := readField_eq_ok hs hf
    obtain ⟨vs, hvs⟩ := ih (((framed_readField k).ok hf).2 hs) hgs
    exact ⟨v :: vs, fieldValues_cons_eq_ok.2 ⟨v, gs, vs, rfl, rfl, hv, hvs⟩⟩

/-- Raw lengths that are read are as many as are asked for, each of its width. -/
theorem readLengthFields_eq_ok {latch : Nat → Nat → State → State} {w i : Nat} {fs : List Field}
    (h : readLengthFields w latch n i s = .ok fs t) :
    ∃ vs : List Nat, (vs.length = n ∧ ∀ v ∈ vs, v < 2 ^ w) ∧ fs = vs.map (.raw w) := by
  induction n generalizing i s fs with
  | zero =>
    cases h
    exact ⟨[], ⟨rfl, nofun⟩, rfl⟩
  | succ n ih =>
    obtain ⟨v, u, hv, h⟩ := Proc.bind_eq_ok.1 h
    rw [Proc.bind_update] at h
    obtain ⟨gs, x, hgs, h⟩ := Proc.bind_eq_ok.1 h
    cases h
    obtain ⟨vs, ⟨hlen, hall⟩, rfl⟩ := ih hgs
    exact ⟨v :: vs, ⟨congrArg Nat.succ hlen, List.forall_mem_cons.2 ⟨readBits_lt hv, hall⟩⟩, rfl⟩

theorem lzxInt16_lt (h : lzxInt16 s = .ok v t) : v < 2 ^ 16 := by
  by_cases hin : s.byteOff + 2 ≤ s.storeLen.toNat
  · cases (lzxInt16_of_le hin).symm.trans h
    exact BitVec.isLt _
  · cases (show lzxInt16 s = _ from Proc.bind_of_error (readRaw_of_lt (Nat.not_le.1 hin))).symm.trans h

theorem readU32_lt (h : readU32 s = .ok v t) : v < 2 ^ 32 := by
  by_cases hin : s.byteOff + 4 ≤ s.storeLen.toNat
  · cases (readU32_of_le hin).symm.trans h
    exact littleEndian_lt s 4
  · cases (show readU32 s = _ from Proc.bind_of_error (readRaw_of_lt (Nat.not_le.1 hin))).symm.trans h

end

/-! ## The fetch -/

/-- What the engine's procedures need of a state, and keep: the core is not in FAULTED, and the engine's part of the
invariant holds. -/
structure Ready (s : State) : Prop where
  idle : s.faulted = false
  engine : EngineInv s

theorem Ready.of_kept {s t : State} (h : Kept s t) (hs : Ready s) : Ready t where
  idle := h.1.faulted.trans hs.idle
  engine := h.2 hs.engine

theorem Framed.ready {α : Type} {p : Proc α} (hp : Framed p) {s t : State} {a : α} (h : p s = .ok a t) (hs : Ready s) :
    Ready t :=
  hs.of_kept (hp.ok h)

section
variable {s t : State}

theorem advances_decoded {fmt : Format} {fields : List Field} (h : ∃ i, decode (.element fmt fields) = .ok i) :
    Advances (decoded fmt fields) s := by
  obtain ⟨i, hi⟩ := h
  exact .of_ok (decoded_of_ok hi s) (Nat.le_refl _)

theorem advances_lzxInt16 (s : State) : Advances lzxInt16 s := (advances_readRaw 2 s).bind_pure

theorem advances_readU32 (s : State) : Advances readU32 s := (advances_readRaw 4 s).bind_pure

theorem advances_readByte (s : State) : Advances readByte s := (advances_readRaw 1 s).bind_pure

/-- An implicit chunk header of one byte only: the byte is given back, then missed (45_framer.md R166). -/
theorem fetch_chunkHeader_short (h : s.byteOff + 1 = s.storeLen.toNat) (hff : s.storeByte s.byteOff ≠ 0xFF) :
    fetchElement .chunkHeader s = .error (.raise .readPastEnd) s := by
  have hlen := s.storeLen.isLt
  have hbyte : readByte s = .ok (s.storeByte s.byteOff) (s.withCursor (s.byteOff + 1) s.bitOff) :=
    readByte_of_lt (by omega)
  have hback : writeByteOffset ((s.withCursor (s.byteOff + 1) s.bitOff).byteOff - 1)
      (s.withCursor (s.byteOff + 1) s.bitOff) = .ok () s := by
    rw [State.withCursor_byteOff _ _ (by omega), writeByteOffset_run, writeCursor_of_lt _ _ (by omega),
      Nat.add_sub_cancel, State.withCursor_withCursor, State.withCursor_bitOff _ _ s.bitOff_lt, State.withCursor_self]
  have hread : lzxInt16 s = .error (.raise .readPastEnd) s := Proc.bind_of_error (readRaw_of_lt (by omega))
  rw [fetchElement, fetchChunkHeader, Proc.bind_of_ok hbyte, if_neg hff, Proc.bind_get, Proc.bind_of_ok hback,
    Proc.bind_of_error hread]

theorem advances_fetchChunkHeader (s : State) : Advances fetchChunkHeader s := by
  have hlen := s.storeLen.isLt
  rcases Nat.lt_or_ge s.byteOff s.storeLen.toNat with hlt | hle
  case inr => exact .of_raise (Proc.bind_of_error (readByte_of_le hle))
  by_cases hff : s.storeByte s.byteOff = 0xFF
  · refine (advances_readByte s).bind fun c t h => ?_
    cases (readByte_of_lt hlt).symm.trans h
    rw [hff]
    exact (advances_lzxInt16 _).bind fun fs u hfs => (advances_lzxInt16 u).bind fun bs v hbs =>
      advances_decoded ⟨_, decode_chunkHeader_eq_ok.2
        (.inr ⟨fs, bs, ⟨lzxInt16_lt hfs, lzxInt16_lt hbs⟩, rfl, rfl⟩)⟩
  · rcases Nat.lt_or_ge s.storeLen.toNat (s.byteOff + 2) with hshort | hin
    · exact .of_raise (fetch_chunkHeader_short (by omega) hff)
    · refine .of_ok (fetch_chunkHeader_implicit hin hff) ?_
      rw [skipped_byteOff (by omega)]
      exact Nat.le_add_right _ _

theorem advances_fetchBlockHeader (s : State) : Advances fetchBlockHeader s :=
  (advances_readBits 3 s).bind fun _ _ htype => (Advances.update (Nat.le_refl _)).bind fun _ u _ =>
    (advances_readBits 16 u).bind fun _ v hhi => (advances_readBits 8 v).bind fun _ _ hlo =>
      advances_decoded ⟨_, decode_blockHeader_eq_ok.2
        ⟨_, _, _, ⟨readBits_lt htype, readBits_lt hhi, readBits_lt hlo⟩, rfl, rfl⟩⟩

theorem advances_fetchPretreeItem (hs : Ready s) : Advances fetchPretreeItem s := by
  refine (advances_decodeTree .pretree s).bind fun sym u hsym => ?_
  have hm : sym < 20 := decodeTree_lt hs.engine hsym
  have hu : Ready u := (framed_decodeTree _).ready hsym hs
  refine .ite (fun h19 => ?_) fun _ => ?_
  · refine (advances_readBits 1 u).bind fun z v hz => (Advances.check _ _).bind fun _ w hw =>
      (advances_decodeTree .pretree w).bind fun s2 _ hs2 => advances_decoded ?_
    have hready : Ready w := (framed_checkRun _).ready hw ((framed_readBits 1).ready hz hu)
    subst h19
    exact exists_decode_pretreeItem (vs := [z, s2]) hm
      (fieldValues_pair_eq_ok.2 ⟨z, s2, rfl, rfl, readBits_lt hz, decodeTree_lt hready.engine hs2⟩)
  · refine (advances_readFields (pretreePlan sym) u).bind fun fs _ hfs => advances_decoded ?_
    obtain ⟨vs, hvs⟩ := exists_fieldValues hu.engine hfs
    exact exists_decode_pretreeItem hm hvs

theorem advances_fetchMainItem (hs : Ready s) : Advances fetchMainItem s := by
  refine (advances_decodeTree .main s).bind fun sym u hsym => .bind_get ?_
  have hm : sym < 512 := decodeTree_lt hs.engine hsym
  have hu : Ready u := (framed_decodeTree _).ready hsym hs
  refine (advances_readFields _ u).bind fun fs _ hfs => advances_decoded ?_
  obtain ⟨vs, hvs⟩ := exists_fieldValues hu.engine hfs
  exact exists_decode_mainItem hm hvs

theorem advances_fetchUncompReps (s : State) : Advances fetchUncompReps s :=
  (advances_readU32 s).bind fun _ _ h0 => (Advances.update (Nat.le_refl _)).bind fun _ t _ =>
    (advances_readU32 t).bind fun _ _ h1 => (Advances.update (Nat.le_refl _)).bind fun _ u _ =>
      (advances_readU32 u).bind fun _ _ h2 => (Advances.update (Nat.le_refl _)).bind fun _ _ _ =>
        advances_decoded ⟨_, decode_uncompReps_eq_ok.2
          ⟨_, _, _, ⟨readU32_lt h0, readU32_lt h1, readU32_lt h2⟩, rfl, rfl⟩⟩

theorem advances_fetchElement (hs : Ready s) (k : ElemKind) : Advances (fetchElement k) s := by
  cases k with
  | chunkHeader => exact advances_fetchChunkHeader s
  | blockHeader => exact advances_fetchBlockHeader s
  | pretreeItem => exact advances_fetchPretreeItem hs
  | mainItem => exact advances_fetchMainItem hs
  | uncompReps => exact advances_fetchUncompReps s
  | align => exact advances_decoded ⟨_, decode_align_eq_ok.2 ⟨rfl, rfl⟩⟩
  | uncompBytes => exact advances_decoded ⟨_, decode_uncompBytes_eq_ok.2 ⟨rfl, rfl⟩⟩
  | transform =>
    refine (advances_readField (.raw 1) s).bind fun f _ hf => advances_decoded ?_
    obtain ⟨v, rfl, hv⟩ := readField_eq_ok hs.engine hf
    exact ⟨_, decode_transform_eq_ok.2 ⟨v, hv, rfl, rfl⟩⟩
  | lengthFooter =>
    refine (advances_readField (.sym .length) s).bind fun f _ hf => advances_decoded ?_
    obtain ⟨v, rfl, hv⟩ := readField_eq_ok hs.engine hf
    exact ⟨_, decode_lengthFooter_eq_ok.2 ⟨v, hv, rfl, rfl⟩⟩
  | alignedSymbol =>
    refine (advances_readField (.sym .aligned) s).bind fun f _ hf => advances_decoded ?_
    obtain ⟨v, rfl, hv⟩ := readField_eq_ok hs.engine hf
    exact ⟨_, decode_alignedSymbol_eq_ok.2 ⟨v, hv, rfl, rfl⟩⟩
  | alignedLengths =>
    refine (advances_readLengthFields (latch := latchAlignedLen) (fun _ _ _ => rfl) 3 8 0 s).bind fun fs _ hfs =>
      advances_decoded ?_
    obtain ⟨vs, hvs, rfl⟩ := readLengthFields_eq_ok hfs
    exact ⟨_, decode_alignedLengths_eq_ok.2 ⟨vs, hvs, rfl, rfl⟩⟩
  | pretree =>
    refine (advances_readLengthFields (latch := latchPretreeLen) (fun _ _ _ => rfl) 4 20 0 s).bind fun fs _ hfs =>
      advances_decoded ?_
    obtain ⟨vs, hvs, rfl⟩ := readLengthFields_eq_ok hfs
    exact ⟨_, decode_pretree_eq_ok.2 ⟨vs, hvs, rfl, rfl⟩⟩

end

/-! ## The elements in their places -/

/-- Where the engine's loops read the element of a place: entries of its range are due, or the run is not at its end and
ends in the window. -/
def PlaceReady : ElemKind → State → Prop
  | .pretreeItem, s => s.itemDue
  | .mainItem, s => 0 < s.tmp.run ∧ s.windowPosn.toNat + s.tmp.run ≤ 65536
  | .uncompBytes, s => s.windowPosn.toNat + s.tmp.run ≤ 65536
  | _, _ => True

/-- A fetch writes nothing that these conditions speak of. -/
theorem PlaceReady.of_fetched {k : ElemKind} {s t : State} (hk : PlaceReady k s) (h : Fetched s t) :
    PlaceReady k t := by
  obtain ⟨v, rfl⟩ := h
  cases k <;> exact hk

section
variable {s t : State}

theorem advances_buildTree (x : Tree) (s : State) : Advances (buildTree x) s := by
  rcases buildTree_cases x s with ⟨_, -, h⟩ | ⟨_, -, h⟩
  · exact .of_ok h (by simp [State.byteOff])
  · exact .of_raise h

theorem advances_writeRun (hs : s.itemDue) (count : Nat) (value : State → Nat) : Advances (writeRun count value) s := by
  rcases writeRun_cases count value s with ⟨hnot, -⟩ | ⟨-, -, h⟩ | ⟨-, -, h⟩
  · exact absurd hs hnot
  · exact .of_raise h
  · exact .of_ok h (by simp [State.byteOff])

theorem checkRun_stays {count : Nat} (h : checkRun count s = .ok () t) : t = s := by
  unfold checkRun at h
  split at h <;> cases h
  rfl

theorem advances_pretreeInstr (hs : s.itemDue) (sym : Nat) (vs : List Nat) :
    Advances (runElement (pretreeInstr sym vs)) s := by
  unfold pretreeInstr
  split_ifs
  · exact advances_writeRun hs _ _
  · exact advances_writeRun hs _ _
  · exact advances_writeRun hs _ _
  · refine Advances.bind (.check _ _) fun _ u hu => .ite (fun _ => .raise _) fun _ => ?_
    cases checkRun_stays hu
    exact advances_writeRun hs _ _

theorem advances_blockInstr (type : Nat) (size : BitVec 24) (s : State) :
    Advances (runElement (blockInstr type size)) s := by
  have hinvalid (t : BitVec 3) : Advances (blockHeader t size >>= fun _ => raise .invalidBlockType : Proc Unit) s :=
    Advances.bind (.update (Nat.le_refl _)) fun _ _ _ => .raise _
  unfold blockInstr
  split_ifs
  · exact hinvalid 0
  · exact .update (Nat.le_refl _)
  · exact .update (Nat.le_refl _)
  · exact .update (Nat.le_refl _)
  · exact hinvalid _

theorem advances_winWrite {i : Nat} (hi : i < 65536) (v : Byte) (s : State) : Advances (winWrite i v) s :=
  .of_ok (winWrite_of_lt v hi) (Nat.le_refl _)

theorem advances_winRead (i : Nat) (s : State) : Advances (winRead i) s := by
  cases h : s.windowByte i with
  | some b => exact .of_ok (winRead_of_some h) (Nat.le_refl _)
  | none => exact .of_raise (winRead_of_none h)

theorem advances_readWindow (cells : List Nat) (s : State) : Advances (readWindow cells) s := by
  induction cells generalizing s with
  | nil => exact .pure _
  | cons i is ih => exact (advances_winRead i s).bind fun _ t _ => (ih t).bind_pure

theorem advances_copyLoop {off n i : Nat} (h : i + n ≤ 65536) (s : State) : Advances (copyLoop off n i) s := by
  induction n generalizing i s with
  | zero => exact .pure _
  | succ n ih =>
    exact (advances_winRead _ s).bind fun b t _ => (advances_winWrite (by omega) b t).bind fun _ u _ =>
      ih (by omega) u

theorem advances_lit (hs : PlaceReady .mainItem s) (c : Byte) : Advances (doLit c) s := by
  obtain ⟨hrun, hposn⟩ := hs
  exact .bind_get <| .ite (fun h0 => absurd h0 (by omega)) fun _ =>
    (advances_winWrite (by omega) c s).bind fun _ t _ => .update (Nat.le_refl _)

theorem advances_finishMatch (hs : PlaceReady .mainItem s) : Advances finishMatch s := by
  obtain ⟨-, hposn⟩ := hs
  refine Advances.bind (.check _ _) fun _ t hoffset => Advances.bind (.check _ _) fun _ u hlength => ?_
  cases checkOffset_stays hoffset
  obtain ⟨rfl, hlen⟩ := checkLength_eq_ok hlength
  exact .bind_get <| (advances_copyLoop (by omega) _).bind fun _ v _ => .update (Nat.le_refl _)

theorem cacheAfter_byteOff (s : State) (len : Nat) (src : OffsetSource) :
    (cacheAfter s len src).byteOff = s.byteOff := by
  unfold cacheAfter
  split <;> rfl

theorem placeReady_cacheAfter (hs : PlaceReady .mainItem s) (len : Nat) (src : OffsetSource) :
    PlaceReady .mainItem (cacheAfter s len src) := by
  rw [PlaceReady, cacheAfter_tmp, cacheAfter_windowPosn]
  exact hs

theorem advances_match (hs : PlaceReady .mainItem s) {i : Instr} {len : Nat} {src : OffsetSource}
    (h : matchForm i = some (len, src)) : Advances (runElement i) s := by
  obtain ⟨-, hrun⟩ := runElement_of_matchForm h s
  have hfinish := advances_finishMatch (placeReady_cacheAfter hs len src)
  exact ⟨fun f t he => hfinish.answers f t (hrun ▸ he), fun a t ha =>
    (cacheAfter_byteOff s len src).ge.trans (hfinish.onward a t (hrun ▸ ha))⟩

theorem advances_uncompBytes (hs : PlaceReady .uncompBytes s) : Advances doUncompBytes s :=
  .bind_get <| .ite (fun _ => .raise _) fun _ => (advances_readRaw _ s).bind fun bs t hread => by
    obtain ⟨w, hwrite, -⟩ := writeWindow_ok (i := s.windowPosn.toNat) (bs := bs) (s := t)
      (by rw [(readRaw_length hread).1]; exact hs)
    exact (Advances.of_ok hwrite (Nat.le_refl _)).bind fun _ _ _ => .update (Nat.le_refl _)

/-- An element that stands in its place and is read there meets no stop. -/
theorem advances_runElement {k : ElemKind} {i : Instr} (hi : PlaceHolds k i) (hk : PlaceReady k s) :
    Advances (runElement i) s := by
  cases k with
  | chunkHeader => rcases hi with ⟨fs, bs, rfl⟩ | ⟨bs, rfl⟩ <;> exact .update (Nat.le_refl _)
  | transform =>
    obtain ⟨b, rfl⟩ := hi
    exact .ite (fun _ => .update (Nat.le_refl _)) fun _ => .raise _
  | blockHeader =>
    obtain ⟨type, size, rfl⟩ := hi
    exact advances_blockInstr type size s
  | alignedLengths =>
    obtain ⟨a, rfl⟩ := hi
    exact Advances.bind (.update (Nat.le_refl _)) fun _ t _ => advances_buildTree _ t
  | pretree =>
    obtain ⟨p, rfl⟩ := hi
    exact Advances.bind (.update (Nat.le_refl _)) fun _ t _ => advances_buildTree _ t
  | pretreeItem =>
    obtain ⟨sym, vs, rfl⟩ := hi
    exact advances_pretreeInstr hk sym vs
  | mainItem =>
    rcases hi with ⟨c, rfl⟩ | ⟨len, src, h⟩
    · exact advances_lit hk c
    · exact advances_match hk h
  | lengthFooter | alignedSymbol =>
    obtain ⟨f, rfl⟩ := hi
    exact .update (Nat.le_refl _)
  | align =>
    obtain rfl := hi
    exact advances_alignCursor s
  | uncompReps =>
    obtain ⟨r0, r1, r2, rfl⟩ := hi
    exact .update (Nat.le_refl _)
  | uncompBytes =>
    obtain rfl := hi
    exact advances_uncompBytes hk

theorem advances_runNext (hs : Ready s) {k : ElemKind} (hk : PlaceReady k s) : Advances (runNext k) s :=
  (advances_fetchElement hs k).bind fun i u h =>
    advances_runElement (yields_fetchElement k s i u h) (hk.of_fetched (fetched_of_fetchElement h))

end

/-! ## The tree definitions and the runs -/

section
variable {s t : State} {n : Nat}

/-- The bound of a loop that is not met. -/
theorem Advances.bound {b : State → Prop} [DecidablePred b] (f : Fault) (h : ¬b s) :
    Advances (fun s => if b s then .error (.halt f) s else .ok () s : Proc Unit) s :=
  .of_ok (if_neg h) (Nat.le_refl _)

/-- Every pretree item moves the index on, so as many turns as entries are enough (43_lzx_blocks.md R147). -/
theorem advances_pretreeItems (hs : Ready s) (hlast : s.tmp.last ≤ writtenEntries s.tmp.array)
    (hn : s.tmp.last - s.tmp.idx ≤ n) : Advances (pretreeItems n) s := by
  induction n generalizing s with
  | zero => exact .bound _ (by omega)
  | succ n ih =>
    refine .bind_get <| .ite (fun hlt => ?_) fun _ => .pure _
    refine (advances_runNext hs (k := .pretreeItem) ⟨hlt, hlast⟩).bind fun _ u hu => ?_
    obtain ⟨i, hi⟩ := (runNext_eq_ok hs.idle).1 hu
    obtain ⟨count, hcount, htmp⟩ := tmp_of_pretreeItem hs.idle hi
    refine ih ((framed_runNext _).ready hu hs) ?_ ?_
    · simpa only [htmp] using hlast
    · simp only [htmp]
      omega

theorem advances_readLengths (hs : Ready s) {x : LenArray} (first : Nat) {last : Nat} (h : last ≤ writtenEntries x) :
    Advances (readLengths x first last) s := by
  refine (advances_runNext hs (k := .pretree) trivial).bind fun _ u hu => ?_
  refine (Advances.update (Nat.le_refl _)).bind fun _ v hv => ?_
  cases hv
  exact advances_pretreeItems (((framed_runNext _).ready hu hs).of_kept (Kept.other rfl rfl)) h (Nat.le_refl _)

theorem advances_verbatimTrees (hs : Ready s) : Advances verbatimTrees s := by
  refine (advances_readLengths hs 0 (by decide)).bind fun _ s1 h1 => ?_
  have hs1 := (framed_readLengths _ _ _).ready h1 hs
  refine (advances_readLengths hs1 256 (by decide)).bind fun _ s2 h2 => ?_
  have hs2 := (framed_readLengths _ _ _).ready h2 hs1
  refine (advances_buildTree _ s2).bind fun _ s3 h3 => ?_
  have hs3 := (framed_buildTree _).ready h3 hs2
  exact (advances_readLengths hs3 0 (by decide)).bind fun _ s4 _ => advances_buildTree _ s4

/-- What a block header is followed by: the trees or the offsets of its type (43_lzx_blocks.md R141). -/
def blockTrees : Proc Unit := do
  let s ← get
  if s.blockType = 2 then
    runNext .alignedLengths
    verbatimTrees
  else if s.blockType = 1 then verbatimTrees
  else if s.blockType = 3 then
    runNext .align
    runNext .uncompReps
  else raise .invalidBlockType

theorem readBlockHeader_eq : readBlockHeader = (runNext .blockHeader >>= fun _ => blockTrees) := rfl

theorem advances_blockTrees (hs : Ready s) : Advances blockTrees s := by
  refine .bind_get <| .ite (fun _ => ?_) fun _ => .ite (fun _ => advances_verbatimTrees hs) fun _ =>
    .ite (fun _ => ?_) fun _ => .raise _
  · exact (advances_runNext hs (k := .alignedLengths) trivial).bind fun _ u hu =>
      advances_verbatimTrees ((framed_runNext _).ready hu hs)
  · exact (advances_runNext hs (k := .align) trivial).bind fun _ u hu =>
      advances_runNext ((framed_runNext _).ready hu hs) (k := .uncompReps) trivial

theorem advances_readBlockHeader (hs : Ready s) : Advances readBlockHeader s := by
  rw [readBlockHeader_eq]
  exact (advances_runNext hs (k := .blockHeader) trivial).bind fun _ t ht =>
    advances_blockTrees ((framed_runNext _).ready ht hs)

/-- Every element lowers the run, so as many turns as bytes are enough (44_lzx_decode.md R150). -/
theorem advances_compressedRun (hs : Ready s) (hposn : s.windowPosn.toNat + s.tmp.run ≤ 65536) (hn : s.tmp.run ≤ n) :
    Advances (compressedRun n) s := by
  induction n generalizing s with
  | zero => exact .bound _ (by omega)
  | succ n ih =>
    refine .bind_get <| .ite (fun hpos => ?_) fun _ => .pure _
    refine (advances_runNext hs (k := .mainItem) ⟨hpos, hposn⟩).bind fun _ u hu => ?_
    obtain ⟨i, hi⟩ := (runNext_eq_ok hs.idle).1 hu
    obtain ⟨count, hcount, hfilled⟩ := filled_of_elementRun hs.idle hi
    have hrun := hfilled.run
    have hmoved := hfilled.posn
    exact ih ((framed_runNext _).ready hu hs) (by omega) (by omega)

theorem startRun_eq_ok {run : Nat} (h : startRun run s = .ok () t) :
    t = s.atRun run ∧ t.windowPosn.toNat + run ≤ 65536 := by
  rw [startRun_run] at h
  split_ifs at h with hlt
  cases h
  exact ⟨rfl, by rw [State.atRun_posn]; omega⟩

theorem advances_startRun (run : Nat) (s : State) : Advances (startRun run) s := by
  by_cases h : s.windowPosn.toNat % 65536 + run ≤ 65536
  · exact .of_ok (startRun_of_le h) (Nat.le_refl _)
  · exact .of_raise (startRun_of_lt (Nat.not_le.1 h))

theorem advances_runStep (hs : Ready s) : Advances runStep s := by
  refine .bind_get <| .ite (fun _ => .pure _) fun _ => (advances_startRun _ s).bind fun _ t ht => ?_
  have hready := (framed_startRun _).ready ht hs
  obtain ⟨rfl, hposn⟩ := startRun_eq_ok ht
  exact .ite (fun _ => advances_compressedRun hready hposn (Nat.le_refl _)) fun _ =>
    advances_runNext hready (k := .uncompBytes) hposn

end

/-! ## The loop of the engine -/

section
variable {s t : State} {n : Nat}

/-- A run is taken off the frame (43_lzx_blocks.md R142). -/
theorem runStep_togo (h : runStep s = .ok () t) : t.tmp.togo = s.tmp.togo - min s.blockRemaining.toNat s.tmp.togo := by
  rw [runStep, Proc.bind_get] at h
  split_ifs at h with h0
  · cases h
    omega
  all_goals
    obtain ⟨_, u, hstart, hrun⟩ := Proc.bind_eq_ok.1 h
    obtain ⟨rfl, -⟩ := startRun_eq_ok hstart
  · exact (Keeps.ok (keepsOwed_compressedRun _) trivial hrun).2.togo
  · exact (Keeps.ok (keepsOwed_runNext (by decide)) trivial hrun).2.togo

theorem readBits_sixteen {v : Nat} (h : readBits 16 s = .ok v t) :
    t.byteOff = s.byteOff + 2 ∧ s.byteOff + 2 ≤ s.storeLen.toNat := by
  by_cases hin : framesPresent s 16
  · cases (readBits_of_present hin).symm.trans h
    obtain ⟨hbyte, -⟩ := advanced_cursors hin
    have hbit := s.bitOff_lt
    rw [hbyte]
    rcases hin with h0 | hin <;> omega
  · cases (readBits_of_missing hin).symm.trans h

/-- A block header has 27 bits: it begins a frame and leaves it (70_reset_and_hazards.md R194). -/
theorem fetchBlockHeader_moves {i : Instr} (h : fetchBlockHeader s = .ok i t) :
    s.byteOff < t.byteOff ∧ s.byteOff < s.storeLen.toNat := by
  obtain ⟨type, u, htype, h⟩ := Proc.bind_eq_ok.1 h
  rw [Proc.bind_update] at h
  obtain ⟨hi, v, hhi, h⟩ := Proc.bind_eq_ok.1 h
  have hmove := readBits_sixteen hhi
  have hfirst := (advances_readBits 3 s).onward type u htype
  have hlen : u.storeLen = s.storeLen := ((framed_readBits 3).ok htype).1.storeLen
  have hlast : v.byteOff ≤ t.byteOff :=
    ((advances_readBits 8 v).bind fun _ _ hlo => advances_decoded ⟨_, decode_blockHeader_eq_ok.2
      ⟨_, _, _, ⟨readBits_lt htype, readBits_lt hhi, readBits_lt hlo⟩, rfl, rfl⟩⟩).onward i t h
  rw [← hlen]
  change v.byteOff = u.byteOff + 2 ∧ u.byteOff + 2 ≤ u.storeLen.toNat at hmove
  omega

end

/-! ## The loops of the engine and of the framer -/

section
variable {s t : State} {n : Nat}

/-- A block header read moves the byte cursor on, within STORE (70_reset_and_hazards.md R194). -/
theorem readBlockHeader_moves (hs : Ready s) (h : readBlockHeader s = .ok () t) :
    s.byteOff < t.byteOff ∧ s.byteOff < s.storeLen.toNat := by
  rw [readBlockHeader_eq] at h
  obtain ⟨_, u, hheader, htrees⟩ := Proc.bind_eq_ok.1 h
  obtain ⟨i, v, hfetch, hrun⟩ := Proc.bind_eq_ok.1 hheader
  have hmoved := fetchBlockHeader_moves hfetch
  have hholds := yields_fetchElement .blockHeader s i v hfetch
  have helement := (advances_runElement (s := v) hholds trivial).onward () u hrun
  have hrest := (advances_blockTrees ((framed_runNext _).ready hheader hs)).onward () t htrees
  omega

/-- Every turn takes a run off the frame or moves the byte cursor past a block header, so as many turns as bytes of the
frame and of STORE are enough (70_reset_and_hazards.md R194). -/
theorem advances_frameLoop (hs : Ready s) (hn : s.tmp.togo + (s.storeLen.toNat - s.byteOff) ≤ n) :
    Advances (frameLoop n) s := by
  induction n generalizing s with
  | zero => exact .bound _ (by omega)
  | succ n ih =>
    have hturn {u : State} (hu : Ready u)
        (hle : u.tmp.togo - min u.blockRemaining.toNat u.tmp.togo + (u.storeLen.toNat - u.byteOff) ≤ n) :
        Advances (runStep >>= fun _ => frameLoop n) u := by
      refine (advances_runStep hu).bind fun _ v hv => ih (framed_runStep.ready hv hu) ?_
      have hback := (advances_runStep hu).onward () v hv
      have hlen : v.storeLen = u.storeLen := (framed_runStep.ok hv).1.storeLen
      rw [runStep_togo hv, hlen]
      omega
    refine .bind_get <| .ite (fun hpos => .ite (fun _ => ?_) fun hrest => hturn hs ?_) fun _ => .pure _
    · refine (advances_readBlockHeader hs).bind fun _ u hu => hturn (framed_readBlockHeader.ready hu hs) ?_
      have hmoved := readBlockHeader_moves hs hu
      have hlen : u.storeLen = s.storeLen := (framed_readBlockHeader.ok hu).1.storeLen
      have htogo : u.tmp.togo = s.tmp.togo := (Keeps.ok keepsOwed_readBlockHeader trivial hu).2.togo
      rw [hlen, htogo]
      omega
    · have hpositive : s.blockRemaining.toNat ≠ 0 := fun h0 => hrest (BitVec.eq_of_toNat_eq h0)
      omega

theorem advances_sessionHeader (hs : Ready s) : Advances sessionHeader s :=
  .bind_get <| .ite (fun _ => .pure _) fun _ => advances_runNext hs (k := .transform) trivial

theorem advances_decompress (hs : Ready s) (fs bs : Nat) : Advances (decompress fs bs) s := by
  refine (Advances.update (Nat.le_refl _)).bind fun _ t ht => ?_
  have hready : Ready t := by
    cases ht
    exact hs.of_kept (Kept.other rfl rfl)
  refine (advances_sessionHeader hready).bind fun _ u hu => ?_
  have hopen : Ready u := framed_sessionHeader.ready hu hready
  refine (Advances.update (Nat.le_refl _)).bind fun _ v hv => .bind_get ?_
  cases hv
  have hloop := advances_frameLoop (s := u.withTmp fun t => { t with togo := fs })
    (n := fs + 8 * u.storeLen.toNat + 1) (hopen.of_kept (Kept.other rfl rfl))
    (show fs + (u.storeLen.toNat - u.byteOff) ≤ _ by omega)
  exact hloop.bind fun _ w _ => (advances_alignCursor w).bind fun _ x _ => .bind_get (advances_readWindow _ x)

/-- Every chunk header raises FRM_CONSUMED, so as many turns as bytes of the container are enough
(70_reset_and_hazards.md R194). -/
theorem advances_chunkLoop {clen : Nat} (hs : Ready s) (hclen : clen < 2 ^ 32)
    (hn : clen ≤ s.frmConsumed.toNat + n) : Advances (chunkLoop clen n) s := by
  induction n generalizing s with
  | zero => exact .bound _ (by omega)
  | succ n ih =>
    refine .bind_get <| .ite (fun hlt => ?_) fun _ => .pure _
    refine (advances_runNext hs (k := .chunkHeader) trivial).bind fun _ t ht => .bind_get ?_
    have hready : Ready t := (framed_runNext _).ready ht hs
    obtain ⟨i, hi⟩ := (runNext_eq_ok hs.idle).1 ht
    have hcounted := headerCounted_of_elementRun hs.idle hi
    refine .ite (fun _ => .pure _) fun _ => .ite (fun _ => .raise _) fun _ => ?_
    refine (advances_decompress hready _ _).bind fun out u hu => ?_
    refine (Advances.update (Nat.le_refl _)).bind fun _ v hv => ?_
    have hframer : SameFramer t u := (Keeps.ok (keepsFramer_decompress _ _) trivial hu).2
    have hmoved := lt_consumed_chunkCounted (out := out) (by omega) hcounted hframer.frmConsumed hcounted.blockSize
    obtain rfl : chunkCounted u out t.tmp.bs = v := by
      cases hv
      rfl
    exact ih (((framed_decompress _ _).ready hu hready).of_kept (Kept.other rfl rfl)) (by omega)

end

/-! ## The commands -/

section
variable {s : State}

theorem advances_doLzxDecompress (hs : Ready s) (fs bs : U32) : Advances (doLzxDecompress fs bs) s :=
  .ite (fun _ => .raise _) fun _ => (advances_decompress hs _ _).bind_pure

theorem advances_doFrmRun (hs : Ready s) (clen dlen : U32) : Advances (doFrmRun clen dlen) s := by
  refine (Advances.update (Nat.le_refl _)).bind fun _ t ht => ?_
  have hready : Ready t := by
    cases ht
    exact hs.of_kept (Kept.other rfl rfl)
  exact (advances_chunkLoop hready clen.isLt (Nat.le_add_left _ _)).bind fun _ u _ =>
    .bind_get <| .ite (fun _ => .pure _) fun _ => .raise _

theorem advances_memRead (a n : Nat) (s : State) : Advances (memRead a n) s := by
  by_cases h : a + n ≤ s.storeLen.toNat
  · exact .of_ok (memRead_of_le h) (Nat.le_refl _)
  · exact .of_raise (memRead_of_lt (Nat.not_le.1 h))

theorem advances_readNumber (n : Nat) (value : List Byte → Result) (s : State) : Advances (readNumber n value) s :=
  (advances_readRaw n s).bind_pure

theorem advances_varintLoop (n i r : Nat) (s : State) : Advances (varintLoop n i r) s := by
  induction n generalizing i r s with
  | zero => exact .raise _
  | succ n ih => exact (advances_readByte s).bind fun _ t _ => .ite (fun _ => .pure _) fun _ => ih _ _ t

theorem answers_writeByteOffset (b : Nat) (s : State) : Answers (writeByteOffset b) s :=
  answers_writeCursor b s.bitOff s

theorem answers_setBitPos (v : Int) (s : State) : Answers (setBitPos v) s := answers_writeCursor _ _ s

theorem advances_doRegRead (a : U32) (s : State) : Advances (doRegRead a) s := by
  refine .bind_get ?_
  split
  · exact .pure _
  · exact .raise _

theorem advances_doArrayRead (a b : U32) (s : State) : Advances (doArrayRead a b) s := by
  refine .bind_get ?_
  split
  · exact .pure _
  · exact .raise _

theorem answers_doHufBuild (n tb : U32) (data : List Byte) (s : State) : Answers (doHufBuild n tb data) s := by
  rcases doHufBuild_cases n tb data s with ⟨-, h⟩ | ⟨-, ⟨_, -, h⟩ | ⟨_, -, h⟩⟩
  · exact .of_raise h
  · exact .of_raise h
  · exact .of_ok h

theorem answers_doLoad (data : List Byte) (s : State) : Answers (doLoad data) s := by
  unfold doLoad
  split
  · exact .of_raise rfl
  · exact .of_ok rfl

theorem advances_doHufDecode (s : State) : Advances doHufDecode s :=
  .bind_get <| .ite (fun _ => (advances_decodeSym _ _ _ s).bind_pure) fun _ => .raise _

end

/-- Every command but RESET runs a procedure that meets no stop. -/
theorem exists_runs_answers {op : BitVec 8} (a b : U32) (data : List Byte) (hr : op ≠ 0x7F) :
    ∃ p, Runs ⟨op, a, b, data⟩ p ∧ ∀ s, Ready s → Answers p s := by
  rcases opcode_cases ⟨op, a, b, data⟩ with h | h | h | h | h
  · exact ⟨doIllegal, .inl fun _ => by rw [decodeCommand_illegal h]; rfl, fun s _ => .of_raise rfl⟩
  · rcases h with rfl | rfl | rfl | rfl | rfl | rfl | rfl
    · exact ⟨doSeekAbs a, .inl fun _ => rfl, fun s _ => (answers_writeByteOffset _ s).bind_pure⟩
    · exact ⟨doSeekRel a, .inl fun _ => rfl, fun s _ => .bind_get (answers_writeByteOffset _ s).bind_pure⟩
    · exact ⟨doReadBytes a, .inl fun _ => rfl, fun s _ => (advances_readNumber _ .bytes s).answers⟩
    · exact ⟨doPeekBytes a, .inl fun _ => rfl, fun s _ => .bind_get (advances_memRead _ _ s).answers.bind_pure⟩
    · exact ⟨doGetPos, .inl fun _ => rfl, fun s _ => .of_ok rfl⟩
    · exact ⟨doRegRead a, .inr fun _ => rfl, fun s _ => (advances_doRegRead a s).answers⟩
    · exact ⟨doArrayRead a b, .inr fun _ => rfl, fun s _ => (advances_doArrayRead a b s).answers⟩
  · rcases h with rfl | rfl | rfl | rfl | rfl | rfl | rfl | rfl | rfl | rfl | rfl | rfl | rfl | rfl
    all_goals exact ⟨_, .inl fun _ => rfl, fun s _ => (advances_readNumber _ _ s).answers⟩
  · rcases h with rfl | rfl | rfl | rfl | rfl | rfl | rfl
    · exact ⟨doRead7Bit, .inl fun _ => rfl, fun s _ => (advances_varintLoop 5 0 0 s).bind_pure.answers⟩
    · exact ⟨doReadString, .inl fun _ => rfl, fun s _ =>
        ((advances_varintLoop 5 0 0 s).bind fun n t _ => advances_readNumber n .bytes t).answers⟩
    · exact ⟨doReadLzxInt16, .inl fun _ => rfl, fun s _ => (advances_lzxInt16 s).bind_pure.answers⟩
    · exact ⟨doReadBits a, .inl fun _ => rfl, fun s _ =>
        (Advances.ite (fun _ => .raise _) fun _ => (advances_readBits _ s).bind_pure).answers⟩
    · exact ⟨doPeekBits a, .inl fun _ => rfl, fun s _ =>
        (Advances.ite (fun _ => .raise _) fun _ => (advances_peekBits _ s).bind_pure).answers⟩
    · exact ⟨doSetBitPos a, .inl fun _ => rfl, fun s _ => (answers_setBitPos _ s).bind_pure⟩
    · exact ⟨doAlign, .inl fun _ => rfl, fun s _ => (advances_alignCursor s).bind_pure.answers⟩
  · rcases h with rfl | rfl | rfl | rfl | rfl | rfl | rfl
    · exact ⟨doHufBuild a b data, .inl fun _ => rfl, fun s _ => answers_doHufBuild a b data s⟩
    · exact ⟨doHufDecode, .inl fun _ => rfl, fun s _ => (advances_doHufDecode s).answers⟩
    · exact ⟨doLzxReset, .inl fun _ => rfl, fun s _ => .of_ok rfl⟩
    · exact ⟨doLzxDecompress a b, .inl fun _ => rfl, fun s hs => (advances_doLzxDecompress hs a b).answers⟩
    · exact ⟨doFrmRun a b, .inl fun _ => rfl, fun s hs => (advances_doFrmRun hs a b).answers⟩
    · exact ⟨doLoad data, .inl fun _ => rfl, fun s _ => answers_doLoad data s⟩
    · exact absurd rfl hr

/-! ## O16: every command is answered -/

section
variable {c : Command} {s t : State}

/-- A command that takes the core on answers, and leaves the commands that wait (00_scope.md R17). -/
theorem answered_of_exec (h : exec (decodeCommand c) s = .next t) : t.pending = s.pending ∧ t.response ≠ none := by
  by_cases hr : c.opcode = 0x7F
  · rw [exec_resetCommand hr h]
    exact ⟨rfl, nofun⟩
  obtain ⟨p, hc, hp⟩ := exists_runs_recorded hr
  rcases hc.next_cases h with rfl | ⟨r, u, hu, rfl⟩ | ⟨k, u, hu, rfl⟩
  · exact ⟨rfl, nofun⟩
  · exact ⟨(Keeps.ok hp trivial hu).2.pending, nofun⟩
  · exact ⟨(Keeps.error hp trivial hu).2.pending, nofun⟩

theorem decodeCommand_ne_reset (hr : c.opcode ≠ 0x7F) : decodeCommand c ≠ .reset := fun h => by
  unfold decodeCommand at h
  split at h
  case h_35 hop => exact hr hop
  all_goals cases h

/-- From a state of the invariant no command meets a stop of the model. -/
theorem exists_exec_next (hs : EngineInv s) (c : Command) : ∃ t, exec (decodeCommand c) s = .next t := by
  obtain ⟨op, a, b, data⟩ := c
  by_cases hr : op = 0x7F
  · subst hr
    exact ⟨_, rfl⟩
  obtain ⟨p, hc, hp⟩ := exists_runs_answers a b data hr
  cases hf : s.faulted with
  | true =>
    rcases exec_of_faulted hf (decodeCommand_ne_reset (c := ⟨op, a, b, data⟩) hr) with h | ⟨r, h⟩
    · exact ⟨_, h⟩
    · exact ⟨_, h⟩
  | false =>
    have hready : Ready (s.begin op) := ⟨hf, { hs with }⟩
    rw [hc.of_idle hf]
    cases hrun : p (s.begin op) with
    | ok r t => exact ⟨_, command_of_ok hf hrun⟩
    | error e t =>
      cases e with
      | raise k => exact ⟨_, command_of_raise hf hrun⟩
      | halt f => exact absurd hrun (hp _ hready f t)

end

/-- Settles O16: the procedure of a command meets no stop, its loops have turns enough, and what ends a command
answers it. -/
theorem everyCommandEnds : Obligations.EveryCommandEnds := by
  intro s c rest hs hpending
  obtain ⟨t, ht⟩ := exists_exec_next (s := { s with pending := rest }) { hs with } c
  obtain ⟨hwaiting, hanswer⟩ := answered_of_exec ht
  exact ⟨t, (step_of_command hpending).trans ht, hwaiting, hanswer⟩

end Sys2Proof.Machine
